-- ==== Sys2Proof/Word.lean ====
section
/-! DEFINITION. The widths of the machine's words (spec 00_scope.md R7, R9): bytes, 16-bit words, 12-bit
address immediates and register numbers. All of them are unsigned; the core has no signed value (R9). -/

namespace Sys2Proof

/-- An 8-bit value: a general register, a memory byte, an immediate `kk` (R7, R82). -/
abbrev Byte := BitVec 8

/-- A 16-bit value: an instruction word, `pc`, `I`, a return address (R7, R24, R26, R27). -/
abbrev Word := BitVec 16

/-- A 12-bit address immediate `nnn` (R82). -/
abbrev Addr := BitVec 12

/-- A register number 0x0 to 0xF (R21). -/
abbrev Reg := Fin 16

end Sys2Proof
end

