-- ==== Sys2Proof/Config.lean ====
section
/-! DEFINITION. What an implementation fixes, and the one free value. The four named parameters of spec 00_scope.md R8,
with the spec's default for each, and the random byte source of 43_index_random.md R201.

The parameters are arguments of the model: they are held in the state's field `params`, which construction fills
and no step changes, so a claim about every state is a claim about every setting (assumption log 1, DESIGN CHOICE). -/

namespace Sys2Proof

/-- `P_UNLISTED` (R8, D3): how a word that selects no handler executes. -/
inductive UnlistedPolicy where
  /-- R231: a no-op, the source's stated policy. -/
  | nop
  /-- R232: the step is refused, the word has no meaning. -/
  | refuse
  deriving DecidableEq, Repr

/-- `P_ZERO_DECODE` (R8, D2): which bits select CLS and RET inside family 0x0 (R86). -/
inductive ZeroDecode where
  /-- Bits 7 to 0 alone. -/
  | lowByte
  /-- All sixteen bits. -/
  | fullWord
  deriving DecidableEq, Repr

/-- `P_VF_ORDER` (R8, D8): which write remains when a flag-setting instruction names VF as its destination (R168). -/
inductive VfOrder where
  | flagLast
  | resultLast
  deriving DecidableEq, Repr

/-- `P_RESET_VALUES` (R8, D12): whether state the source gives no initial value for starts at zero or is drawn. -/
inductive ResetValues where
  | zero
  | arbitrary
  deriving DecidableEq, Repr

/-- The four named parameters of R8. -/
structure Params where
  unlisted    : UnlistedPolicy
  zeroDecode  : ZeroDecode
  vfOrder     : VfOrder
  resetValues : ResetValues
  deriving DecidableEq, Repr

/-- The defaults R8 names. -/
def Params.default : Params :=
  { unlisted := .nop, zeroDecode := .lowByte, vfOrder := .flagLast, resetValues := .zero }

/-- The random byte of draw number `k` (R201, R31, D15): a FREE VALUE. It has no body, so every one of the 256 bytes is
admitted for every draw and no proof can see which (assumption log 2, DESIGN CHOICE). -/
opaque Config.randomByte : Nat → Byte

end Sys2Proof
end

