-- ==== Sys2Proof/Syntax.lean ====
section
/-! DEFINITION. The 21 instructions of the core (spec 30_encoding.md R84, R85), one constructor per row of
opcode_table.json. A word that selects none of them is unlisted (45_unlisted.md R230): it is no instruction, and
the decoder rejects it. -/

namespace Sys2Proof

/-- An instruction of the core. `x` and `y` are register numbers, `kk` an 8-bit immediate, `nnn` a 12-bit address,
`n` a count of sprite rows (R82, R83). -/
inductive Instr where
  /-- 00E0, clear-screen (R210). -/
  | cls
  /-- 00EE, return (R131). -/
  | ret
  /-- 1nnn, jump (R132). -/
  | jp (nnn : Addr)
  /-- 2nnn, call (R133). -/
  | call (nnn : Addr)
  /-- 3xkk, skip if Vx = kk (R134). -/
  | seImm (x : Reg) (kk : Byte)
  /-- 4xkk, skip if Vx ≠ kk (R135). -/
  | sneImm (x : Reg) (kk : Byte)
  /-- 5xyN, skip if Vx = Vy (R136). -/
  | seReg (x y : Reg)
  /-- 6xkk, load immediate (R160). -/
  | ldImm (x : Reg) (kk : Byte)
  /-- 7xkk, add immediate, no flag (R161). -/
  | addImm (x : Reg) (kk : Byte)
  /-- 8xy0, register move (R162). -/
  | ldReg (x y : Reg)
  /-- 8xy1, bitwise OR (R163). -/
  | orReg (x y : Reg)
  /-- 8xy2, bitwise AND (R164). -/
  | andReg (x y : Reg)
  /-- 8xy3, bitwise XOR (R165). -/
  | xorReg (x y : Reg)
  /-- 8xy4, add with carry flag (R170). -/
  | addReg (x y : Reg)
  /-- 8xy5, subtract x - y (R172). -/
  | sub (x y : Reg)
  /-- 8xy7, subtract y - x (R174). -/
  | subn (x y : Reg)
  /-- 9xyN, skip if Vx ≠ Vy (R137). -/
  | sneReg (x y : Reg)
  /-- Annn, load index (R200). -/
  | ldI (nnn : Addr)
  /-- Bnnn, jump to nnn + V0 (R138). -/
  | jpV0 (nnn : Addr)
  /-- Cxkk, random byte AND kk (R201). -/
  | rnd (x : Reg) (kk : Byte)
  /-- Dxyn, draw sprite of n rows (R214). -/
  | drw (x y : Reg) (n : Nat)
  deriving DecidableEq, Repr

end Sys2Proof
end

