-- ==== Sys2Proof/Decode.lean ====
section
/-! DEFINITION. The decoder, total on every word and every byte list, rejecting by name (spec 30_encoding.md R80 to
R90), and after it the encoder and the opcode table of R85. -/

namespace Sys2Proof

/-! ## Fields (R82): every instruction extracts a field the same way -/

/-- `w[15:12]`, the top nibble, the primary dispatch key (R81, R84). -/
def fieldOp (w : Word) : Nat := (w.extractLsb' 12 4).toNat

/-- `x = w[11:8]`, the primary register. -/
def fieldX (w : Word) : Reg := (w.extractLsb' 8 4).toFin

/-- `y = w[7:4]`, the secondary register. -/
def fieldY (w : Word) : Reg := (w.extractLsb' 4 4).toFin

/-- `n = w[3:0]`, the sprite height or the family-0x8 sub-operation. -/
def fieldN (w : Word) : Nat := (w.extractLsb' 0 4).toNat

/-- `kk = w[7:0]`, the 8-bit immediate. -/
def fieldKK (w : Word) : Byte := w.extractLsb' 0 8

/-- `nnn = w[11:0]`, the 12-bit address immediate. -/
def fieldNNN (w : Word) : Addr := w.extractLsb' 0 12

/-! ## Decoding -/

/-- Why a word is unlisted: the row of R230's table it falls in. -/
inductive UnlistedWord where
  /-- A family-0 word that is neither CLS nor RET (R86). -/
  | familyZero
  /-- A family-8 word with a bottom nibble of 6 or 8 to F (R87). -/
  | familyEight
  /-- Any 0xExxx word (R89). -/
  | familyE
  /-- Any 0xFxxx word (R89). -/
  | familyF
  deriving DecidableEq, Repr

/-- Family 0x0 under `P_ZERO_DECODE` (R86). -/
def decodeZero (z : ZeroDecode) (w : Word) : Except UnlistedWord Instr :=
  match z with
  | .lowByte =>
    if fieldKK w = 0xE0#8 then .ok .cls
    else if fieldKK w = 0xEE#8 then .ok .ret
    else .error .familyZero
  | .fullWord =>
    if w = 0x00E0#16 then .ok .cls
    else if w = 0x00EE#16 then .ok .ret
    else .error .familyZero

/-- Family 0x8 sub-decodes on the bottom nibble (R87). Its standard shifts 8xy6 and 8xyE are unlisted (R233). -/
def decodeEight (w : Word) : Except UnlistedWord Instr :=
  let x := fieldX w
  let y := fieldY w
  match fieldN w with
  | 0x0 => .ok (.ldReg x y)
  | 0x1 => .ok (.orReg x y)
  | 0x2 => .ok (.andReg x y)
  | 0x3 => .ok (.xorReg x y)
  | 0x4 => .ok (.addReg x y)
  | 0x5 => .ok (.sub x y)
  | 0x7 => .ok (.subn x y)
  | _ => .error .familyEight

/-- The decoder of R84: every word is exactly one instruction or is unlisted. Families 0x5 and 0x9 ignore bits 3 to 0
(R88); families 0xE and 0xF hold no instruction (R89). -/
def decodeWord (z : ZeroDecode) (w : Word) : Except UnlistedWord Instr :=
  match fieldOp w with
  | 0x0 => decodeZero z w
  | 0x1 => .ok (.jp (fieldNNN w))
  | 0x2 => .ok (.call (fieldNNN w))
  | 0x3 => .ok (.seImm (fieldX w) (fieldKK w))
  | 0x4 => .ok (.sneImm (fieldX w) (fieldKK w))
  | 0x5 => .ok (.seReg (fieldX w) (fieldY w))
  | 0x6 => .ok (.ldImm (fieldX w) (fieldKK w))
  | 0x7 => .ok (.addImm (fieldX w) (fieldKK w))
  | 0x8 => decodeEight w
  | 0x9 => .ok (.sneReg (fieldX w) (fieldY w))
  | 0xA => .ok (.ldI (fieldNNN w))
  | 0xB => .ok (.jpV0 (fieldNNN w))
  | 0xC => .ok (.rnd (fieldX w) (fieldKK w))
  | 0xD => .ok (.drw (fieldX w) (fieldY w) (fieldN w))
  | 0xE => .error .familyE
  | _ => .error .familyF

/-- Two bytes as one big-endian word: `word[15:8] = hi`, `word[7:0] = lo` (R54). -/
def joinBytes (hi lo : Byte) : Word := hi ++ lo

/-- Why a list of bytes is not the start of an instruction. -/
inductive DecodeReject where
  /-- The word at the front is unlisted (R230). -/
  | unlisted (why : UnlistedWord) (w : Word)
  /-- Fewer than the two bytes that every instruction has (R80). -/
  | truncated
  deriving DecidableEq, Repr

/-- Decode the instruction at the front of a byte list; answers it with the bytes after it (R54, R80). -/
def decodeBytes (z : ZeroDecode) : List Byte → Except DecodeReject (Instr × List Byte)
  | hi :: lo :: rest =>
    match decodeWord z (joinBytes hi lo) with
    | .ok i => .ok (i, rest)
    | .error why => .error (.unlisted why (joinBytes hi lo))
  | _ => .error .truncated

/-! ## Encoding (R81, R82, R85) -/

/-- `NNN` format (R81). -/
def formNNN (op : BitVec 4) (nnn : Addr) : Word := op ++ nnn

/-- A register number as the four bits of a register field (R82). -/
def regField (r : Reg) : BitVec 4 := BitVec.ofFin r

/-- `XKK` format (R81). -/
def formXKK (op : BitVec 4) (x : Reg) (kk : Byte) : Word := op ++ regField x ++ kk

/-- `XY` and `XYN` formats (R81): the last nibble is the sub-operation or the height. -/
def formXYN (op : BitVec 4) (x y : Reg) (n : Nat) : Word := op ++ regField x ++ regField y ++ BitVec.ofNat 4 n

/-- The word of an instruction (R85). Bits the encoding ignores (R86, R88) are written 0 (assumption log 14,
DESIGN CHOICE). -/
def encode : Instr → Word
  | .cls => 0x00E0#16
  | .ret => 0x00EE#16
  | .jp nnn => formNNN 0x1#4 nnn
  | .call nnn => formNNN 0x2#4 nnn
  | .seImm x kk => formXKK 0x3#4 x kk
  | .sneImm x kk => formXKK 0x4#4 x kk
  | .seReg x y => formXYN 0x5#4 x y 0x0
  | .ldImm x kk => formXKK 0x6#4 x kk
  | .addImm x kk => formXKK 0x7#4 x kk
  | .ldReg x y => formXYN 0x8#4 x y 0x0
  | .orReg x y => formXYN 0x8#4 x y 0x1
  | .andReg x y => formXYN 0x8#4 x y 0x2
  | .xorReg x y => formXYN 0x8#4 x y 0x3
  | .addReg x y => formXYN 0x8#4 x y 0x4
  | .sub x y => formXYN 0x8#4 x y 0x5
  | .subn x y => formXYN 0x8#4 x y 0x7
  | .sneReg x y => formXYN 0x9#4 x y 0x0
  | .ldI nnn => formNNN 0xA#4 nnn
  | .jpV0 nnn => formNNN 0xB#4 nnn
  | .rnd x kk => formXKK 0xC#4 x kk
  | .drw x y n => formXYN 0xD#4 x y n

/-- The high byte of a word, the one at the lower address (R54). -/
def highByte (w : Word) : Byte := w.extractLsb' 8 8

/-- The low byte of a word. -/
def lowByte (w : Word) : Byte := w.extractLsb' 0 8

/-- A word as the hardware stores it, high byte first (R54). -/
def wordBytes (w : Word) : List Byte := [highByte w, lowByte w]

/-- The bytes of an instruction in memory order. -/
def encodeBytes (i : Instr) : List Byte := wordBytes (encode i)

/-! ## The opcode table (R85) -/

/-- One row of R85's table: a word is this instruction when its bits under `mask` are `pattern`. -/
structure OpcodeRow where
  mnemonic : String
  pattern  : Word
  mask     : Word
  deriving DecidableEq, Repr

/-- The word lies in the row. -/
def OpcodeRow.holds (r : OpcodeRow) (w : Word) : Bool := (w &&& r.mask) == r.pattern

/-- The mask of CLS and RET under `P_ZERO_DECODE` (R85 "mask (default)" F0FF, R86). -/
def zeroMask : ZeroDecode → Word
  | .lowByte => 0xF0FF#16
  | .fullWord => 0xFFFF#16

/-- The 21 rows of R85. -/
def opcodeTable (z : ZeroDecode) : List OpcodeRow :=
  [ ⟨"CLS", 0x00E0#16, zeroMask z⟩, ⟨"RET", 0x00EE#16, zeroMask z⟩, ⟨"JP", 0x1000#16, 0xF000#16⟩,
    ⟨"CALL", 0x2000#16, 0xF000#16⟩, ⟨"SE_imm", 0x3000#16, 0xF000#16⟩, ⟨"SNE_imm", 0x4000#16, 0xF000#16⟩,
    ⟨"SE_reg", 0x5000#16, 0xF000#16⟩, ⟨"LD_imm", 0x6000#16, 0xF000#16⟩, ⟨"ADD_imm", 0x7000#16, 0xF000#16⟩ ] ++
  [ ⟨"LD_reg", 0x8000#16, 0xF00F#16⟩, ⟨"OR", 0x8001#16, 0xF00F#16⟩, ⟨"AND", 0x8002#16, 0xF00F#16⟩,
    ⟨"XOR", 0x8003#16, 0xF00F#16⟩, ⟨"ADD_reg", 0x8004#16, 0xF00F#16⟩, ⟨"SUB", 0x8005#16, 0xF00F#16⟩,
    ⟨"SUBN", 0x8007#16, 0xF00F#16⟩ ] ++
  [ ⟨"SNE_reg", 0x9000#16, 0xF000#16⟩, ⟨"LD_I", 0xA000#16, 0xF000#16⟩, ⟨"JP_V0", 0xB000#16, 0xF000#16⟩,
    ⟨"RND", 0xC000#16, 0xF000#16⟩, ⟨"DRW", 0xD000#16, 0xF000#16⟩ ]

/-- The row of the table an instruction stands in, by its mnemonic. -/
def Instr.mnemonic : Instr → String
  | .cls => "CLS"
  | .ret => "RET"
  | .jp _ => "JP"
  | .call _ => "CALL"
  | .seImm _ _ => "SE_imm"
  | .sneImm _ _ => "SNE_imm"
  | .seReg _ _ => "SE_reg"
  | .ldImm _ _ => "LD_imm"
  | .addImm _ _ => "ADD_imm"
  | .ldReg _ _ => "LD_reg"
  | .orReg _ _ => "OR"
  | .andReg _ _ => "AND"
  | .xorReg _ _ => "XOR"
  | .addReg _ _ => "ADD_reg"
  | .sub _ _ => "SUB"
  | .subn _ _ => "SUBN"
  | .sneReg _ _ => "SNE_reg"
  | .ldI _ => "LD_I"
  | .jpV0 _ => "JP_V0"
  | .rnd _ _ => "RND"
  | .drw _ _ _ => "DRW"

/-! ## The host's view of the decoder -/

/-- The instruction of `nbits` bits that a table number stands for, as a word: the bits above `nbits` are 0. The core's
one length is 16 bits (R80), and the table numbers bit 0 as the word's least significant bit. -/
def tableWord (nbits w : Nat) : Word := BitVec.ofNat 16 (w % 2 ^ nbits)

/-- What the decoder reads from the bytes of a table word, under the default parameters (R8; assumption log 16,
DESIGN CHOICE). -/
def decodeTableWord (nbits w : Nat) : Option Instr :=
  match decodeBytes Params.default.zeroDecode (wordBytes (tableWord nbits w)) with
  | .ok (i, _) => some i
  | .error _ => none

end Sys2Proof
end

