-- ==== Sys2Proof/Machine/State.lean ====
section
/-! DEFINITION. The state of the machine (spec 10_state.md R20 to R34), as plain data, its value after reset, and the
names of the ways a step can stop. -/

namespace Sys2Proof.Machine

/-- The two fatal conditions (R240, R241). -/
inductive StackFault where
  | stackOverflow
  | stackUnderflow
  deriving DecidableEq, Repr

/-- `status` (R32, D14): running, or stopped for good by a fault. -/
inductive Status where
  | running
  | faulted (r : StackFault)
  deriving DecidableEq, Repr

/-- The 64 by 32 grid of pixels, row-major: entry `y` is row `y`, whose entry `x` is column `x`; true is on (R28, D27). -/
abbrev Framebuffer := Vector (Vector Bool 64) 32

/-- Memory as the bytes that differ from the contents after construction (R50, R57): addresses strictly rising, no
entry equal to what its address reads as when unlisted (`Memory.initial`). -/
abbrev Memory := List Host.Cell

/-- The Machine State of R20, field by field, and two fields of the model's own: `params`, the four parameters of R8
(assumption log 1, DESIGN CHOICE), and `draws`, how many random bytes have been drawn (assumption log 2,
DESIGN CHOICE). -/
structure State where
  /-- General registers V0 to VF (R21). -/
  V      : Vector Byte 16
  /-- The 4096-byte memory (R50). -/
  mem    : Memory
  /-- The index register (R26). -/
  I      : Word
  /-- The program counter (R24). -/
  pc     : Word
  /-- The 16 return-address entries (R27). -/
  stack  : Vector Word 16
  /-- The number of live entries, 0 to 16 (R27). -/
  sp     : Fin 17
  /-- The framebuffer (R28). -/
  fb     : Framebuffer
  /-- The delay timer, host-owned (R29). -/
  delay  : Byte
  /-- The sound timer, host-owned (R29). -/
  sound  : Byte
  /-- The keypad, host-owned, true is down (R30). -/
  keypad : Vector Bool 16
  /-- Running or faulted (R32). -/
  status : Status
  /-- The parameters the machine was constructed with (R8); the model's own field. -/
  params : Params
  /-- The random bytes drawn so far (R201); the model's own field. -/
  draws  : Nat
  deriving DecidableEq, Repr

/-- How the machine stops. -/
inductive Fault where
  /-- Raised by CALL with `sp = 16` (R240). It carries the whole final state of R113, with its status set.
  Safe: the spec's own outcome, after which there is no cycle. -/
  | stackOverflow (final : State)
  /-- Raised by RET with `sp = 0` (R241). It carries the whole final state of R113, with its status set.
  Safe: the spec's own outcome, after which there is no cycle. -/
  | stackUnderflow (final : State)
  /-- Raised by `step` alone, when the status is already faulted: "a call while `status ≠ Running` has no step" (R110).
  The state is not changed. Safe: nothing runs (assumption log 4, DESIGN CHOICE). -/
  | halted (r : StackFault)
  deriving DecidableEq, Repr

/-- Why the model gives a word no meaning. -/
inductive Refusal where
  /-- An instruction that exec does not model; no arm answers it. Safe: the run stops. -/
  | notModelled (mnemonic : String)
  /-- Raised by `step` for an unlisted word under `P_UNLISTED = refuse` alone (R232, R113 outcome 3).
  Safe: "no claim about a run that reaches it can be proved". -/
  | unlisted (w : Word)
  deriving DecidableEq, Repr

/-- The outcome of one cycle (R113). -/
abbrev Result := Host.Outcome State Fault Refusal

/-- The state after construction with the default parameters and before any ROM is loaded (R34): `pc = 0x200`, status
running, memory the font and zeros (nothing listed), everything else zero, off or false. The zeros and the entry point
are the spec's decision D12; `draws` and `params` are the model's own (assumption log 1, 2, 3). -/
def State.reset : State :=
  { V      := Vector.replicate 16 0
    mem    := []
    I      := 0
    pc     := 0x0200
    stack  := Vector.replicate 16 0
    sp     := 0
    fb     := Vector.replicate 32 (Vector.replicate 64 false)
    delay  := 0
    sound  := 0
    keypad := Vector.replicate 16 false
    status := .running
    params := Params.default
    draws  := 0 }

end Sys2Proof.Machine
end

