-- ==== Sys2Proof/Machine/Memory.lean ====
section
/-! DEFINITION. The byte memory (spec 20_memory.md): its contents after construction, its canonical form, reading and
writing one byte at a masked address. -/

namespace Sys2Proof.Machine

/-- The 80 bytes of the standard font, glyph by glyph (R57, R253, D13). -/
def fontTable : List Byte :=
  [0xF0, 0x90, 0x90, 0x90, 0xF0] ++ [0x20, 0x60, 0x20, 0x20, 0x70] ++
  [0xF0, 0x10, 0xF0, 0x80, 0xF0] ++ [0xF0, 0x10, 0xF0, 0x10, 0xF0] ++
  [0x90, 0x90, 0xF0, 0x10, 0x10] ++ [0xF0, 0x80, 0xF0, 0x10, 0xF0] ++
  [0xF0, 0x80, 0xF0, 0x90, 0xF0] ++ [0xF0, 0x10, 0x20, 0x40, 0x40] ++
  [0xF0, 0x90, 0xF0, 0x90, 0xF0] ++ [0xF0, 0x90, 0xF0, 0x10, 0xF0] ++
  [0xF0, 0x90, 0xF0, 0x90, 0x90] ++ [0xE0, 0x90, 0xE0, 0x90, 0xE0] ++
  [0xF0, 0x80, 0x80, 0x80, 0xF0] ++ [0xE0, 0x90, 0x90, 0x90, 0xE0] ++
  [0xF0, 0x80, 0xF0, 0x80, 0xF0] ++ [0xF0, 0x80, 0xF0, 0x80, 0x80]

/-- The address of glyph 0 (R57). -/
def fontBase : Nat := 0x050

/-- The size of memory in bytes (R50). -/
def memorySize : Nat := 4096

/-- What an address that memory does not list reads as: the contents after construction, the font at 0x050 to 0x09F and
zero elsewhere (R34, R57; zero is decision D12, assumption log 8). -/
def Memory.initial (a : Nat) : Byte :=
  if fontBase ≤ a then fontTable.getD (a - fontBase) 0 else 0

/-- The listed byte at an address, if there is one. -/
def Memory.lookup (a : Nat) : Memory → Option Byte
  | [] => none
  | (b, w) :: m => if a = b then some w else Memory.lookup a m

/-- The byte at an address. -/
def Memory.read (m : Memory) (a : Nat) : Byte := (Memory.lookup a m).getD (Memory.initial a)

/-- List a byte, keeping addresses rising. -/
def Memory.insert (a : Nat) (v : Byte) : Memory → Memory
  | [] => [(a, v)]
  | (b, w) :: m =>
    if a < b then (a, v) :: (b, w) :: m
    else if a = b then (a, v) :: m
    else (b, w) :: Memory.insert a v m

/-- Unlist an address. -/
def Memory.erase (a : Nat) : Memory → Memory
  | [] => []
  | (b, w) :: m => if a = b then m else (b, w) :: Memory.erase a m

/-- Store a byte: storing what an unlisted address reads as removes the entry. -/
def Memory.write (m : Memory) (a : Nat) (v : Byte) : Memory :=
  if v = Memory.initial a then Memory.erase a m else Memory.insert a v m

/-- The canonical form from address `lo` on: addresses rising, below 4096, no entry equal to its initial byte. -/
def Memory.wfFrom (lo : Nat) : Memory → Bool
  | [] => true
  | (a, v) :: m => decide (lo ≤ a) && decide (a < memorySize) && decide (v ≠ Memory.initial a) && Memory.wfFrom (a + 1) m

/-- The canonical form of memory. -/
def Memory.wf (m : Memory) : Bool := Memory.wfFrom 0 m

/-- "any computed address must be masked to 12 bits before use" (R51), and the range of `pc` (R24). -/
def maskAddr (a : Word) : Word := a &&& 0x0FFF#16

/-- `MemRead(addr, 1)` (R52). -/
def State.memRead (s : State) (a : Word) : Byte := Memory.read s.mem (maskAddr a).toNat

/-- `MemWrite(addr, 1, v)` (R53): used by construction alone; no instruction writes memory. -/
def State.memWrite (s : State) (a : Word) (v : Byte) : State :=
  { s with mem := Memory.write s.mem (maskAddr a).toNat v }

end Sys2Proof.Machine
end

