-- ==== Sys2Proof/Machine/Operands.lean ====
section
/-! DEFINITION. Operand forms (spec 30_encoding.md R82, R83; 41_control_flow.md R138; 44_display.md R211 to R213): how an
immediate or a register becomes an address, a jump target, a sprite byte or a pixel position. -/

namespace Sys2Proof.Machine

/-- `V[i]`, a read of a general register (R10, R21). -/
def State.reg (s : State) (x : Reg) : Byte := s.V.get x

/-- `zext_16(nnn)`: an address immediate as stored in `pc` or `I` (R82, R83). -/
def zextAddr (nnn : Addr) : Word := nnn.setWidth 16

/-- `nnn + V[0]` in 16 bits, before the reduction every write of `pc` makes (R138, D4). -/
def offsetTarget (nnn : Addr) (v0 : Byte) : Word := zextAddr nnn + v0.setWidth 16

/-- The byte of sprite row `r`: `MemRead(I + r, 1)` (R211). -/
def State.spriteByte (s : State) (r : Nat) : Byte := s.memRead (s.I + BitVec.ofNat 16 r)

/-- The bit of a sprite byte for column `c`, tested non-zero: bit `7 - c`, the leftmost column being bit 7 (R212, R216,
D10). -/
def spriteBit (b : Byte) (c : Nat) : Bool := b.getLsbD (7 - c)

/-- `(V[x] + c) mod 64` (R213). -/
def pixelColumn (x0 : Byte) (c : Nat) : Fin 64 := ⟨(x0.toNat + c) % 64, Nat.mod_lt _ (by decide)⟩

/-- `(V[y] + r) mod 32` (R213). -/
def pixelRow (y0 : Byte) (r : Nat) : Fin 32 := ⟨(y0.toNat + r) % 32, Nat.mod_lt _ (by decide)⟩

end Sys2Proof.Machine
end

