-- ==== Sys2Proof/Machine/Ops.lean ====
section
/-! DEFINITION. The named operations every meaning is written with: registers, program counter, index register, return
stack, framebuffer, random draw, fetch, and the one operation that raises a fault. -/

namespace Sys2Proof.Machine

/-! ## Registers -/

/-- `V[x] <- v` (R10). No register is hardwired and none aliases another (R21). -/
def State.writeReg (s : State) (x : Reg) (v : Byte) : State := { s with V := s.V.set x.val v x.isLt }

/-- VF, the flag register (R23). -/
def flagReg : Reg := 15

/-- V0, the offset of jump-with-offset (R22). -/
def offsetReg : Reg := 0

/-- `I <- v` (R26). -/
def State.writeIndex (s : State) (v : Word) : State := { s with I := v }

/-! ## Program counter -/

/-- `pc <- target`: every write stores `target mod 0x1000` (R24, D4). -/
def State.writePc (s : State) (target : Word) : State := { s with pc := maskAddr target }

/-- `pc <- pc + 2`: the cycle's advance (R111) and the extra step of a taken skip (R130). -/
def State.advance (s : State) : State := s.writePc (s.pc + 2)

/-- `skipIf(cond, s)` (R130). -/
def State.skipIf (s : State) (cond : Bool) : State := if cond then s.advance else s

/-- The word at `pc`, big-endian, each byte's address masked on its own (R54, R111, D5). -/
def State.fetchWord (s : State) : Word := joinBytes (s.memRead s.pc) (s.memRead (s.pc + 1))

/-! ## Return stack (R27) -/

/-- `stack[k]`. -/
def State.stackEntry (s : State) (k : Fin 16) : Word := s.stack.get k

/-- `stack[sp] <- a; sp <- sp + 1`; nothing when `sp = 16` (R133). -/
def State.pushReturn (s : State) (a : Word) : Option State :=
  if h : s.sp.val < 16 then
    some { s with stack := s.stack.set s.sp.val a h, sp := ⟨s.sp.val + 1, Nat.succ_lt_succ h⟩ }
  else none

/-- `sp <- sp - 1`, and the entry `stack[sp]`, which keeps its value (R131, D23); nothing when `sp = 0`. -/
def State.popReturn (s : State) : Option (Word × State) :=
  if h : 0 < s.sp.val then
    have hk : s.sp.val - 1 < 16 := by omega
    some (s.stack.get ⟨s.sp.val - 1, hk⟩, { s with sp := ⟨s.sp.val - 1, Nat.lt_succ_of_lt hk⟩ })
  else none

/-! ## Framebuffer (R28) -/

/-- `fb[y][x]`. -/
def Framebuffer.pixel (fb : Framebuffer) (y : Fin 32) (x : Fin 64) : Bool := (fb.get y).get x

/-- `fb[y][x] <- not fb[y][x]` (R214). -/
def Framebuffer.toggle (fb : Framebuffer) (y : Fin 32) (x : Fin 64) : Framebuffer :=
  fb.set y.val ((fb.get y).set x.val (!fb.pixel y x) x.isLt) y.isLt

/-- Every pixel off (R210). -/
def Framebuffer.dark : Framebuffer := Vector.replicate 32 (Vector.replicate 64 false)

/-- Store a framebuffer. -/
def State.writeFb (s : State) (fb : Framebuffer) : State := { s with fb := fb }

/-- `fb[y][x]` of a state. -/
def State.pixel (s : State) (y : Fin 32) (x : Fin 64) : Bool := s.fb.pixel y x

/-! ## Random byte (R201) -/

/-- `rnd()`: the byte the next RND consumes, a free value (R31, D15). -/
def State.draw (s : State) : Byte := Config.randomByte s.draws

/-- The byte is consumed: the next RND takes a fresh one. -/
def State.consumeDraw (s : State) : State := { s with draws := s.draws + 1 }

/-! ## Faults -/

/-- Store a status. -/
def State.writeStatus (s : State) (st : Status) : State := { s with status := st }

/-- `raise r` (R10, R113, R244): the status records the fault, no other effect is applied, and the run is over. `s` is
the state after the cycle's fetch and advance. There is no vector, saved register or handler, and no return from a
fault (R244, R245), so no operation stands beside this one. -/
def raiseFault (r : StackFault) (s : State) : Result :=
  match r with
  | .stackOverflow => .fault (.stackOverflow (s.writeStatus (.faulted .stackOverflow)))
  | .stackUnderflow => .fault (.stackUnderflow (s.writeStatus (.faulted .stackUnderflow)))

end Sys2Proof.Machine
end

