-- ==== Sys2Proof/Machine/Flags.lean ====
section
/-! DEFINITION. The flag computations (spec 42_arithmetic_logic.md R166, R168, R170 to R174; 10_state.md R23) and the one
operation that writes a result and a flag. Operands are unsigned; a result wraps mod 256 (R166, R167). -/

namespace Sys2Proof.Machine

/-- The value a true or false flag has in VF: 1 or 0 (R23). -/
def flagByte (b : Bool) : Byte := if b then 1 else 0

/-- Carry: the exact sum is above 255 (R170). -/
def addCarry (a b : Byte) : Bool := decide (255 < a.toNat + b.toNat)

/-- NOT borrow of `a - b`: `a ≥ b` (R172, R174). -/
def notBorrow (a b : Byte) : Bool := decide (b.toNat ≤ a.toNat)

/-- Write the result to Vx and the flag to VF in the order `P_VF_ORDER` gives (R168). -/
def State.writeResultFlag (s : State) (x : Reg) (result flag : Byte) : State :=
  match s.params.vfOrder with
  | .flagLast => (s.writeReg x result).writeReg flagReg flag
  | .resultLast => (s.writeReg flagReg flag).writeReg x result

end Sys2Proof.Machine
end

