-- ==== Sys2Proof/Machine/ArithmeticLogic.lean ====
section
/-! DEFINITION. Register loads, arithmetic and logic (spec 42_arithmetic_logic.md). None of them writes `pc` or raises a
fault. Operands are read before any write (R11, R285). -/

namespace Sys2Proof.Machine

/-- LD Vx, kk (R160). -/
def execLdImm (x : Reg) (kk : Byte) (s : State) : Result := .next (s.writeReg x kk)

/-- ADD Vx, kk (R161): wraps, no flag. -/
def execAddImm (x : Reg) (kk : Byte) (s : State) : Result := .next (s.writeReg x (s.reg x + kk))

/-- LD Vx, Vy (R162). -/
def execLdReg (x y : Reg) (s : State) : Result := .next (s.writeReg x (s.reg y))

/-- OR Vx, Vy (R163): VF kept unless it is the destination (D9). -/
def execOrReg (x y : Reg) (s : State) : Result := .next (s.writeReg x (s.reg x ||| s.reg y))

/-- AND Vx, Vy (R164). -/
def execAndReg (x y : Reg) (s : State) : Result := .next (s.writeReg x (s.reg x &&& s.reg y))

/-- XOR Vx, Vy (R165). -/
def execXorReg (x y : Reg) (s : State) : Result := .next (s.writeReg x (s.reg x ^^^ s.reg y))

/-- ADD Vx, Vy (R170): the sum wraps, VF is the carry. -/
def execAddReg (x y : Reg) (s : State) : Result :=
  .next (s.writeResultFlag x (s.reg x + s.reg y) (flagByte (addCarry (s.reg x) (s.reg y))))

/-- SUB Vx, Vy (R172): the difference x - y wraps, VF is NOT borrow; it never traps (R167). -/
def execSub (x y : Reg) (s : State) : Result :=
  .next (s.writeResultFlag x (s.reg x - s.reg y) (flagByte (notBorrow (s.reg x) (s.reg y))))

/-- SUBN Vx, Vy (R174): the difference y - x wraps, VF is NOT borrow; the destination is Vx (D29). -/
def execSubn (x y : Reg) (s : State) : Result :=
  .next (s.writeResultFlag x (s.reg y - s.reg x) (flagByte (notBorrow (s.reg y) (s.reg x))))

end Sys2Proof.Machine
end

