-- ==== Sys2Proof/Machine/ControlFlow.lean ====
section
/-! DEFINITION. Control flow (spec 41_control_flow.md): return, jump, call, the four skips, jump-with-offset. In a
meaning `s` is the state after the cycle's fetch and advance, so `s.pc` is the address of the following word (R11). -/

namespace Sys2Proof.Machine

/-- RET (R131): StackUnderflow when `sp = 0` (R241). -/
def execRet (s : State) : Result :=
  match s.popReturn with
  | some (a, s') => .next (s'.writePc a)
  | none => raiseFault .stackUnderflow s

/-- JP nnn (R132). -/
def execJp (nnn : Addr) (s : State) : Result := .next (s.writePc (zextAddr nnn))

/-- CALL nnn (R133): StackOverflow when `sp = 16` (R240). -/
def execCall (nnn : Addr) (s : State) : Result :=
  match s.pushReturn s.pc with
  | some s' => .next (s'.writePc (zextAddr nnn))
  | none => raiseFault .stackOverflow s

/-- SE Vx, kk (R134). -/
def execSeImm (x : Reg) (kk : Byte) (s : State) : Result := .next (s.skipIf (s.reg x == kk))

/-- SNE Vx, kk (R135). -/
def execSneImm (x : Reg) (kk : Byte) (s : State) : Result := .next (s.skipIf (s.reg x != kk))

/-- SE Vx, Vy (R136). -/
def execSeReg (x y : Reg) (s : State) : Result := .next (s.skipIf (s.reg x == s.reg y))

/-- SNE Vx, Vy (R137). -/
def execSneReg (x y : Reg) (s : State) : Result := .next (s.skipIf (s.reg x != s.reg y))

/-- JP V0, nnn (R138). -/
def execJpV0 (nnn : Addr) (s : State) : Result := .next (s.writePc (offsetTarget nnn (s.reg offsetReg)))

end Sys2Proof.Machine
end

