-- ==== Sys2Proof/Machine/Display.lean ====
section
/-! DEFINITION. The framebuffer draw unit (spec 44_display.md): clear-screen and draw-sprite. -/

namespace Sys2Proof.Machine

/-- CLS (R210): all 2048 pixels off, VF kept. -/
def execCls (s : State) : Result := .next (s.writeFb Framebuffer.dark)

/-- A drawing in progress: the grid so far, and whether a pixel has gone from on to off (R214). -/
structure Drawing where
  fb        : Framebuffer
  collision : Bool
  deriving DecidableEq, Repr

/-- One toggled pixel: `if fb[py][px] = on then collision := 1`, then the XOR toggle (R214). -/
def Drawing.plot (d : Drawing) (py : Fin 32) (px : Fin 64) : Drawing :=
  { fb := d.fb.toggle py px, collision := d.collision || d.fb.pixel py px }

/-- Column `c` of a sprite row whose byte is `b`: its pixel is toggled when the bit is set (R212, R213, R216). -/
def drawColumn (b x0 : Byte) (py : Fin 32) (d : Drawing) (c : Nat) : Drawing :=
  if spriteBit b c then d.plot py (pixelColumn x0 c) else d

/-- The eight columns of a sprite row. -/
def drawRow (b x0 : Byte) (py : Fin 32) (d : Drawing) : Drawing :=
  (List.range 8).foldl (drawColumn b x0 py) d

/-- The `n` rows of the sprite at `I`, with its top left corner at `(x0, y0)` (R211, R213, R214). -/
def State.drawSprite (s : State) (x0 y0 : Byte) (n : Nat) : Drawing :=
  (List.range n).foldl (fun d r => drawRow (s.spriteByte r) x0 (pixelRow y0 r) d) { fb := s.fb, collision := false }

/-- Store a finished drawing: the grid, then VF, which is always written (R214, D11). -/
def State.writeDrawing (s : State) (d : Drawing) : State := (s.writeFb d.fb).writeReg flagReg (flagByte d.collision)

/-- DRW Vx, Vy, n (R214): the coordinates are read before any write (R285). -/
def execDrw (x y : Reg) (n : Nat) (s : State) : Result :=
  .next (s.writeDrawing (s.drawSprite (s.reg x) (s.reg y) n))

end Sys2Proof.Machine
end

