-- ==== Sys2Proof/Machine/IndexRandom.lean ====
section
/-! DEFINITION. Load-index and random (spec 43_index_random.md). -/

namespace Sys2Proof.Machine

/-- LD I, nnn (R200): the only writer of `I`. -/
def execLdI (nnn : Addr) (s : State) : Result := .next (s.writeIndex (zextAddr nnn))

/-- The effect of RND for the draw `r` (R201): `V[x] <- r & kk`. -/
def State.randomAnd (s : State) (r : Byte) (x : Reg) (kk : Byte) : State := s.writeReg x (r &&& kk)

/-- RND Vx, kk (R201): takes a fresh byte and consumes it. -/
def execRnd (x : Reg) (kk : Byte) (s : State) : Result := .next (s.consumeDraw.randomAnd s.draw x kk)

end Sys2Proof.Machine
end

