-- ==== Sys2Proof/Machine/Unlisted.lean ====
section
/-! DEFINITION. Words that select no handler (spec 45_unlisted.md). -/

namespace Sys2Proof.Machine

/-- An unlisted word, `s` being the state after fetch and advance: a no-op under `P_UNLISTED = nop` (R231), no meaning
under `refuse` (R232). It never gets the meaning other interpreters give it (R233). -/
def execUnlisted (w : Word) (s : State) : Result :=
  match s.params.unlisted with
  | .nop => .next s
  | .refuse => .refused (.unlisted w)

end Sys2Proof.Machine
end

