-- ==== Sys2Proof/Machine/Step.lean ====
section
/-! DEFINITION. One cycle (spec 40_cycle.md R110 to R116), and the host's way to place the next word. -/

namespace Sys2Proof.Machine

/-- Decode the fetched word and run its handler, or the no-op handler, on the state after the advance (R112, R116). -/
def runWord (w : Word) (s : State) : Result :=
  match decodeWord s.params.zeroDecode w with
  | .ok i => exec i s
  | .error _ => execUnlisted w s

/-- One cycle (R116): only while running (R110); fetch and advance, always before dispatch (R111); then dispatch. -/
def step (s : State) : Host.Outcome State Fault Refusal :=
  match s.status with
  | .running => runWord s.fetchWord s.advance
  | .faulted r => .fault (.halted r)

/-- A table word stored where the next cycle fetches: its high byte at `pc`, its low byte at `pc + 1`, both masked
(R54, D5). It stands for the loader (R281; assumption log 7). -/
def State.withFetchWord (s : State) (nbits w : Nat) : State :=
  (s.memWrite s.pc (highByte (tableWord nbits w))).memWrite (s.pc + 1) (lowByte (tableWord nbits w))

end Sys2Proof.Machine
end

