-- ==== Sys2Proof/Machine/Asm.lean ====
section
/-! DEFINITION. The spec's assembler notation (30_encoding.md R91), written from an instruction or a word, as characters.
It is notation alone and has no effect on the machine (D22). -/

namespace Sys2Proof.Machine

/-- One hexadecimal digit, in capitals. -/
def hexDigit (n : Nat) : Char := "0123456789ABCDEF".toList.getD n '?'

/-- `k` hexadecimal digits of a number. -/
def hexDigits : Nat → Nat → List Char
  | 0, _ => []
  | k + 1, n => hexDigits k (n / 16) ++ [hexDigit (n % 16)]

/-- A number written `0x` with `k` digits. -/
def asmHex (k n : Nat) : List Char := "0x".toList ++ hexDigits k n

/-- A register operand, V0 to VF. -/
def asmReg (x : Reg) : List Char := ['V', hexDigit x.val]

/-- A height 0 to 15 in decimal. -/
def asmHeight (n : Nat) : List Char := if n < 10 then [hexDigit n] else ['1', hexDigit (n - 10)]

/-- `MNEMONIC a, b` with a register and one more operand. -/
def asmTwo (m : String) (a b : List Char) : List Char := m.toList ++ [' '] ++ a ++ [',', ' '] ++ b

/-- An instruction in the syntax of R91. -/
def asmInstr : Instr → List Char
  | .cls => "CLS".toList
  | .ret => "RET".toList
  | .jp nnn => "JP ".toList ++ asmHex 3 nnn.toNat
  | .call nnn => "CALL ".toList ++ asmHex 3 nnn.toNat
  | .seImm x kk => asmTwo "SE" (asmReg x) (asmHex 2 kk.toNat)
  | .sneImm x kk => asmTwo "SNE" (asmReg x) (asmHex 2 kk.toNat)
  | .seReg x y => asmTwo "SE" (asmReg x) (asmReg y)
  | .ldImm x kk => asmTwo "LD" (asmReg x) (asmHex 2 kk.toNat)
  | .addImm x kk => asmTwo "ADD" (asmReg x) (asmHex 2 kk.toNat)
  | .ldReg x y => asmTwo "LD" (asmReg x) (asmReg y)
  | .orReg x y => asmTwo "OR" (asmReg x) (asmReg y)
  | .andReg x y => asmTwo "AND" (asmReg x) (asmReg y)
  | .xorReg x y => asmTwo "XOR" (asmReg x) (asmReg y)
  | .addReg x y => asmTwo "ADD" (asmReg x) (asmReg y)
  | .sub x y => asmTwo "SUB" (asmReg x) (asmReg y)
  | .subn x y => asmTwo "SUBN" (asmReg x) (asmReg y)
  | .sneReg x y => asmTwo "SNE" (asmReg x) (asmReg y)
  | .ldI nnn => asmTwo "LD" ['I'] (asmHex 3 nnn.toNat)
  | .jpV0 nnn => asmTwo "JP" (asmReg 0) (asmHex 3 nnn.toNat)
  | .rnd x kk => asmTwo "RND" (asmReg x) (asmHex 2 kk.toNat)
  | .drw x y n => asmTwo "DRW" (asmReg x) (asmReg y) ++ [',', ' '] ++ asmHeight n

/-- A word in the syntax of R91; an unlisted word is `DW 0xhhhh`. -/
def asmWord (z : ZeroDecode) (w : Word) : List Char :=
  match decodeWord z w with
  | .ok i => asmInstr i
  | .error _ => "DW ".toList ++ asmHex 4 w.toNat

end Sys2Proof.Machine
end

