-- ==== Sys2Proof/Machine/Boot.lean ====
section
/-! DEFINITION. Construction of the machine state and the loader (spec 70_reset_and_hazards.md R280 to R282; 10_state.md
R34), for both settings of `P_RESET_VALUES`. -/

namespace Sys2Proof.Machine

/-- The values a construction draws under `P_RESET_VALUES = arbitrary` (R34, D12): one for every field R34 marks D12 but
`pc` and `status`. `I` and the stack entries are drawn within the 12 bits that R26 and R27 always keep (assumption
log 6, DEDUCED). `mem` lists drawn bytes; the last one at an address counts. -/
structure ResetDraws where
  V      : Vector Byte 16
  mem    : List (Word × Byte)
  I      : Addr
  stack  : Vector Addr 16
  sp     : Fin 17
  fb     : Framebuffer
  delay  : Byte
  sound  : Byte
  keypad : Vector Bool 16
  deriving DecidableEq, Repr

/-- `MemWrite(base + i, 1, b[i])` for each byte in turn (R280, R281). -/
def State.loadBytes (base : Nat) : List Byte → State → State
  | [], s => s
  | b :: bs, s => State.loadBytes (base + 1) bs (s.memWrite (BitVec.ofNat 16 base) b)

/-- Step 1 of construction: every field takes its reset value (R34, R280). -/
def State.initial (p : Params) (d : ResetDraws) : State :=
  match p.resetValues with
  | .zero => { State.reset with params := p }
  | .arbitrary =>
    d.mem.foldl (fun s c => s.memWrite c.1 c.2)
      { State.reset with
        params := p, V := d.V, I := zextAddr d.I, stack := d.stack.map zextAddr, sp := d.sp, fb := d.fb,
        delay := d.delay, sound := d.sound, keypad := d.keypad }

/-- The program load address (R7, R57). -/
def loadBase : Nat := 0x200

/-- The size of the program region [0x200, 0x1000) (R282). -/
def maxRom : Nat := 3584

/-- Why a launch is refused. -/
inductive LaunchRefusal where
  /-- The ROM is longer than 3584 bytes (R282, D18). Safe: the spec describes no such run. -/
  | romTooLong (len : Nat)
  deriving DecidableEq, Repr

/-- The construction sequence (R280): reset values, the font at 0x050, the ROM at 0x200 (R281). A ROM longer than 3584
bytes is refused (R282); an empty one is legal. -/
def State.construct (p : Params) (d : ResetDraws) (rom : List Byte) : Except LaunchRefusal State :=
  if rom.length ≤ maxRom then
    .ok (State.loadBytes loadBase rom (State.loadBytes fontBase fontTable (State.initial p d)))
  else .error (.romTooLong rom.length)

end Sys2Proof.Machine
end

