-- ==== Sys2Proof/Machine/HostPort.lean ====
section
/-! DEFINITION. The interface of the block (spec 60_exceptions.md R248 to R252, R258): what the host may do between cycles,
and what it may read. The host acts never inside a cycle (R249), and it has no move that writes memory, registers,
`pc`, `I`, `sp` or `stack` during a run (R258, D19; assumption log 12). -/

namespace Sys2Proof.Machine

/-- What the host may do to the state between cycles (R251, R252, R258). -/
inductive HostMove where
  /-- Set the delay timer, a decrement included (R251). -/
  | setDelay (v : Byte)
  /-- Set the sound timer (R251). -/
  | setSound (v : Byte)
  /-- Write the keypad (R252). -/
  | setKeypad (k : Vector Bool 16)
  deriving DecidableEq, Repr

/-- The host's move. -/
def State.hostMove (s : State) (m : HostMove) : State :=
  match m with
  | .setDelay v => { s with delay := v }
  | .setSound v => { s with sound := v }
  | .setKeypad k => { s with keypad := k }

/-- `fb_read` (R248, R250): the 2048 pixels in row-major order, pixel (x, y) at index `y*64 + x` (R28, D27). -/
def State.fbRead (s : State) : List Bool := s.fb.toList.flatMap Vector.toList

/-- The fault code of the `status` port: 0 none, 1 overflow, 2 underflow (R240, R241, R248). -/
def Status.code : Status → Nat
  | .running => 0
  | .faulted .stackOverflow => 1
  | .faulted .stackUnderflow => 2

/-- The address of the instruction that faulted, recovered from the final state: `(pc - 2) mod 0x1000` (R240). -/
def State.faultAddress (s : State) : Word := maskAddr (s.pc - 2)

/-- The final state a raised fault carries; none when the core was halted already (R110). -/
def Fault.final : Fault → Option State
  | .stackOverflow t => some t
  | .stackUnderflow t => some t
  | .halted _ => none

/-- The same fault with another final state. -/
def Fault.mapState (f : State → State) : Fault → Fault
  | .stackOverflow t => .stackOverflow (f t)
  | .stackUnderflow t => .stackUnderflow (f t)
  | .halted r => .halted r

/-- An outcome with a change made to the state it gives, be it the next one or the final one of a fault. -/
def mapResult (f : State → State) : Result → Result
  | .next t => .next (f t)
  | .fault r => .fault (r.mapState f)
  | .refused r => .refused r

end Sys2Proof.Machine
end

