-- ==== Sys2Proof/Safety.lean ====
section
/-! DEFINITION. The terms claims are stated in: what a change leaves alone, which fields an instruction may write, the
invariant of the machine, running a number of cycles, and a parked state. -/

namespace Sys2Proof.Machine

/-! ## Frames -/

/-- What a change may touch; everything that is not named is left alone. -/
structure Touched where
  regs  : List Reg := []
  pc    : Bool := false
  index : Bool := false
  stack : Bool := false
  fb    : Bool := false
  draws : Bool := false
  deriving DecidableEq, Repr

/-- From `s` to `t` nothing changes but what `w` names. Memory, the timers, the keypad, the status and the parameters are
never among it: no instruction writes them (R35, R53). -/
structure ChangesOnly (w : Touched) (s t : State) : Prop where
  regs   : ∀ r : Reg, r ∉ w.regs → t.reg r = s.reg r
  pc     : w.pc = false → t.pc = s.pc
  index  : w.index = false → t.I = s.I
  sp     : w.stack = false → t.sp = s.sp
  stack  : w.stack = false → ∀ k : Fin 16, t.stackEntry k = s.stackEntry k
  fb     : w.fb = false → ∀ (y : Fin 32) (x : Fin 64), t.pixel y x = s.pixel y x
  draws  : w.draws = false → t.draws = s.draws
  memory : ∀ a : Word, t.memRead a = s.memRead a
  delay  : t.delay = s.delay
  sound  : t.sound = s.sound
  keypad : t.keypad = s.keypad
  status : t.status = s.status
  params : t.params = s.params

end Sys2Proof.Machine

namespace Sys2Proof

open Machine

/-- The "written by" column of the access matrix (R35), the cycle's own advance of `pc` apart. -/
def Instr.writes : Instr → Touched
  | .cls => { fb := true }
  | .ret => { pc := true, stack := true }
  | .jp _ => { pc := true }
  | .call _ => { pc := true, stack := true }
  | .seImm _ _ => { pc := true }
  | .sneImm _ _ => { pc := true }
  | .seReg _ _ => { pc := true }
  | .ldImm x _ => { regs := [x] }
  | .addImm x _ => { regs := [x] }
  | .ldReg x _ => { regs := [x] }
  | .orReg x _ => { regs := [x] }
  | .andReg x _ => { regs := [x] }
  | .xorReg x _ => { regs := [x] }
  | .addReg x _ => { regs := [x, flagReg] }
  | .sub x _ => { regs := [x, flagReg] }
  | .subn x _ => { regs := [x, flagReg] }
  | .sneReg _ _ => { pc := true }
  | .ldI _ => { index := true }
  | .jpV0 _ => { pc := true }
  | .rnd x _ => { regs := [x], draws := true }
  | .drw _ _ _ => { regs := [flagReg], fb := true }

/-- The registers an instruction reads (R35): those it names as sources, and V0 for jump-with-offset (R22). -/
def Instr.readRegs : Instr → List Reg
  | .cls => []
  | .ret => []
  | .jp _ => []
  | .call _ => []
  | .seImm x _ => [x]
  | .sneImm x _ => [x]
  | .seReg x y => [x, y]
  | .ldImm _ _ => []
  | .addImm x _ => [x]
  | .ldReg _ y => [y]
  | .orReg x y => [x, y]
  | .andReg x y => [x, y]
  | .xorReg x y => [x, y]
  | .addReg x y => [x, y]
  | .sub x y => [x, y]
  | .subn x y => [x, y]
  | .sneReg x y => [x, y]
  | .ldI _ => []
  | .jpV0 _ => [offsetReg]
  | .rnd _ _ => []
  | .drw x y _ => [x, y]

end Sys2Proof

namespace Sys2Proof.Machine

/-! ## Sprites -/

/-- Pixel (`px`, `py`) is one that a draw-sprite of `n` rows toggles: some set bit of the sprite at `I` falls on it (R211 to
R214). -/
def SpritePixel (s : State) (x y : Reg) (n : Nat) (py : Fin 32) (px : Fin 64) : Prop :=
  ∃ r c : Nat, r < n ∧ c < 8 ∧ (s.memRead (s.I + BitVec.ofNat 16 r)).getLsbD (7 - c) = true ∧
    py.val = ((s.reg y).toNat + r) % 32 ∧ px.val = ((s.reg x).toNat + c) % 64

/-! ## The invariant -/

/-- What holds of every state of a run: `pc`, `I` and the return addresses lie below 0x1000 (R24, R26, R27), and memory
is in canonical form (R50). -/
structure State.Inv (s : State) : Prop where
  pc    : s.pc.toNat < 0x1000
  index : s.I.toNat < 0x1000
  stack : ∀ k : Fin 16, (s.stackEntry k).toNat < 0x1000
  mem   : Memory.wf s.mem = true

/-! ## Runs -/

/-- `k` cycles, stopping at the first fault or refusal (R257). -/
def cycles : Nat → State → Result
  | 0, s => .next s
  | k + 1, s =>
    match step s with
    | .next t => cycles k t
    | .fault r => .fault r
    | .refused r => .refused r

/-- A parked state (R257): running, and the word at `pc` is a jump to `pc` itself. -/
def State.parked (s : State) : Prop :=
  s.status = .running ∧ ∃ nnn : Addr, s.fetchWord = encode (.jp nnn) ∧ zextAddr nnn = s.pc

/-- "The program ends in state Q" (R257): some finite number of cycles reaches a parked state satisfying `Q`, with no fault
and no refusal. -/
def State.endsIn (s : State) (Q : State → Prop) : Prop :=
  ∃ k t, cycles k s = .next t ∧ t.parked ∧ Q t

end Sys2Proof.Machine
end

