-- ==== Sys2Proof/Certificates/Slice0/Obligations.lean ====
section
/-! DEFINITION. The statements for the provers. Each docstring names the rule of the spec it formalises, or says that it is
derived. A word is written out as a number from the spec's encoding (30_encoding.md R81, R85), not by the model's encoder,
where a statement says what a word decodes to.

Some clauses of the rules are the spec's own decisions (92_eei_decisions.md), and so of the statements: the opcode values of
17 instructions (D1), the reduction of `pc` mod 0x1000 (D4), the second byte of a fetch at 0xFFF (D5), operands read before
writes (D7), the order of result and flag (D8, a parameter), VF kept by the bitwise operations (D9), bit 7 the leftmost
column (D10), height 0 (D11), the reset values (D12), the font bytes (D13), the state after a fault (D14), the popped entry
kept (D23) and Vx the destination of SUB and SUBN (D29). Assumption log 5 lists them. -/

open Sys2Proof Sys2Proof.Machine

/-! ## Encoding -/

/-- Derived (30_encoding.md): decoding an encoded well-formed instruction gives it back, as a word and as the front of a byte
list, under both settings of `P_ZERO_DECODE`. -/
def Obligations.EncodingRoundTrip : Prop :=
  ∀ (z : ZeroDecode) (i : Instr) (rest : List Byte), i.wf = true →
    decodeWord z (encode i) = .ok i ∧ decodeBytes z (encodeBytes i ++ rest) = .ok (i, rest)

/-- Derived (R84, R85): the decoder and the opcode table agree on every word. A word lies in a row exactly when it decodes
to that row's instruction (so no two rows overlap), it decodes to something exactly when it lies in some row, and what it
decodes to is well formed. -/
def Obligations.DecoderAgreesWithOpcodeTable : Prop :=
  ∀ (z : ZeroDecode) (w : Word),
    (∀ row ∈ opcodeTable z, row.holds w = true ↔ ∃ i, decodeWord z w = .ok i ∧ i.mnemonic = row.mnemonic) ∧
    ((∃ i, decodeWord z w = .ok i) ↔ ∃ row ∈ opcodeTable z, row.holds w = true) ∧
    (∀ i, decodeWord z w = .ok i → i.wf = true)

/-- Derived (R230): exactly the words of the table's four ranges are unlisted. -/
def Obligations.UnlistedWordsAreTheFourRanges : Prop :=
  ∀ (z : ZeroDecode) (w : Word), (∃ why, decodeWord z w = .error why) ↔
    (w.toNat < 0x1000 ∧ (match z with
        | .lowByte => w.toNat % 256 ≠ 0xE0 ∧ w.toNat % 256 ≠ 0xEE
        | .fullWord => w.toNat ≠ 0x00E0 ∧ w.toNat ≠ 0x00EE)) ∨
    (w.toNat / 0x1000 = 8 ∧ (w.toNat % 16 = 6 ∨ 8 ≤ w.toNat % 16)) ∨
    w.toNat / 0x1000 = 0xE ∨ w.toNat / 0x1000 = 0xF

/-- R86: family 0x0 under both settings, for every word of the family. -/
def Obligations.FamilyZeroDecode : Prop :=
  ∀ w : Word, w.toNat < 0x1000 →
    (decodeWord .lowByte w =
      if w.toNat % 256 = 0xE0 then .ok .cls else if w.toNat % 256 = 0xEE then .ok .ret else .error .familyZero) ∧
    (decodeWord .fullWord w =
      if w.toNat = 0x00E0 then .ok .cls else if w.toNat = 0x00EE then .ok .ret else .error .familyZero)

/-- R87: family 0x8 sub-decodes on the bottom nibble; nibbles 6 and 8 to F are unlisted. -/
def Obligations.FamilyEightDecode : Prop :=
  ∀ (z : ZeroDecode) (x y : Reg),
    decodeWord z (BitVec.ofNat 16 (0x8000 + x.val * 0x100 + y.val * 0x10)) = .ok (.ldReg x y) ∧
    decodeWord z (BitVec.ofNat 16 (0x8001 + x.val * 0x100 + y.val * 0x10)) = .ok (.orReg x y) ∧
    decodeWord z (BitVec.ofNat 16 (0x8002 + x.val * 0x100 + y.val * 0x10)) = .ok (.andReg x y) ∧
    decodeWord z (BitVec.ofNat 16 (0x8003 + x.val * 0x100 + y.val * 0x10)) = .ok (.xorReg x y) ∧
    decodeWord z (BitVec.ofNat 16 (0x8004 + x.val * 0x100 + y.val * 0x10)) = .ok (.addReg x y) ∧
    decodeWord z (BitVec.ofNat 16 (0x8005 + x.val * 0x100 + y.val * 0x10)) = .ok (.sub x y) ∧
    decodeWord z (BitVec.ofNat 16 (0x8007 + x.val * 0x100 + y.val * 0x10)) = .ok (.subn x y) ∧
    ∀ n : BitVec 4, n = 0x6#4 ∨ 0x8#4 ≤ n →
      decodeWord z (BitVec.ofNat 16 (0x8000 + x.val * 0x100 + y.val * 0x10 + n.toNat)) = .error .familyEight

/-- R89: every 0xExxx and 0xFxxx word is unlisted. -/
def Obligations.FamiliesEAndFAreUnlisted : Prop :=
  ∀ (z : ZeroDecode) (nnn : BitVec 12),
    decodeWord z (BitVec.ofNat 16 (0xE000 + nnn.toNat)) = .error .familyE ∧
    decodeWord z (BitVec.ofNat 16 (0xF000 + nnn.toNat)) = .error .familyF

/-- R88: 5xyN is SE Vx, Vy and 9xyN is SNE Vx, Vy for every N. -/
def Obligations.RegisterSkipsIgnoreTheLowNibble : Prop :=
  ∀ (z : ZeroDecode) (x y : Reg) (n : BitVec 4),
    decodeWord z (BitVec.ofNat 16 (0x5000 + x.val * 0x100 + y.val * 0x10 + n.toNat)) = .ok (.seReg x y) ∧
    decodeWord z (BitVec.ofNat 16 (0x9000 + x.val * 0x100 + y.val * 0x10 + n.toNat)) = .ok (.sneReg x y)

/-- Derived (R84, R85; a sanity check): words written out by hand decode to the instructions they stand for. -/
def Obligations.SampleWordsDecode : Prop :=
  decodeTableWord 16 0x00E0 = some .cls ∧ decodeTableWord 16 0x00EE = some .ret ∧
  decodeTableWord 16 0x2300 = some (.call 0x300) ∧ decodeTableWord 16 0x6A05 = some (.ldImm 0xA 0x05) ∧
  decodeTableWord 16 0x8344 = some (.addReg 3 4) ∧ decodeTableWord 16 0x8125 = some (.sub 1 2) ∧
  decodeTableWord 16 0xB300 = some (.jpV0 0x300) ∧ decodeTableWord 16 0xD015 = some (.drw 0 1 5) ∧
  decodeTableWord 16 0xF00A = none ∧ decodeTableWord 16 0x8126 = none

/-! ## The cycle -/

/-- R54: the fetched word is the byte at `pc` and, below it, the byte at `pc + 1`, big-endian; at 0xFFF the second byte is
read from 0x000. -/
def Obligations.FetchIsBigEndianAndWraps : Prop :=
  ∀ s : State, s.fetchWord.toNat = (s.memRead s.pc).toNat * 0x100 + (s.memRead (s.pc + 1)).toNat ∧
    (s.pc = 0xFFF#16 → s.memRead (s.pc + 1) = s.memRead 0x000#16)

/-- R52: a read of memory is the byte at the address's low twelve bits. -/
def Obligations.MemoryReadsAreMasked : Prop :=
  ∀ (s : State) (a : Word), s.memRead a = Memory.read s.mem (a.toNat % 0x1000)

/-- R112: a cycle of a running core whose bytes at `pc` decode to `i` runs `i` on the state after the advance, which differs
from the state before in `pc` alone, now `pc + 2` reduced mod 0x1000. -/
def Obligations.StepRunsTheDecodedInstruction : Prop :=
  ∀ (s : State) (i : Instr), s.status = .running →
    decodeBytes s.params.zeroDecode [s.memRead s.pc, s.memRead (s.pc + 1)] = .ok (i, []) →
    step s = exec i { s with pc := BitVec.ofNat 16 ((s.pc.toNat + 2) % 0x1000) }

/-- R231: an unlisted word under `P_UNLISTED = nop` advances `pc` and does nothing else. -/
def Obligations.UnlistedWordIsANop : Prop :=
  ∀ (s : State) (why : UnlistedWord), s.status = .running → s.params.unlisted = .nop →
    decodeWord s.params.zeroDecode s.fetchWord = .error why →
    step s = .next { s with pc := BitVec.ofNat 16 ((s.pc.toNat + 2) % 0x1000) }

/-- R232: an unlisted word under `P_UNLISTED = refuse` is refused, and the outcome names the word. -/
def Obligations.UnlistedWordIsRefused : Prop :=
  ∀ (s : State) (why : UnlistedWord), s.status = .running → s.params.unlisted = .refuse →
    decodeWord s.params.zeroDecode s.fetchWord = .error why →
    step s = .refused (.unlisted s.fetchWord)

/-- Derived (R110, R32): a core that has faulted takes no further cycle. That "no step" is the fault `halted` is the model's
choice (assumption log 4). -/
def Obligations.FaultedCoreTakesNoCycle : Prop :=
  ∀ (s : State) (r : StackFault) (k : Nat), s.status = .faulted r → cycles (k + 1) s = .fault (.halted r)

/-- Derived (R113, R242, R243): a running core's cycle has one of these outcomes: a next state, running; StackOverflow, of a
CALL at `sp = 16`; StackUnderflow, of a RET at `sp = 0`; a refusal of an unlisted word, under `P_UNLISTED = refuse` alone.
A fault carries the state after the advance with nothing else changed but its status. -/
def Obligations.CycleOutcomesAreTheFour : Prop :=
  ∀ s : State, s.status = .running →
    (∃ t, step s = .next t ∧ t.status = .running) ∨
    (∃ nnn, decodeWord s.params.zeroDecode s.fetchWord = .ok (.call nnn) ∧ s.sp.val = 16 ∧
      step s = .fault (.stackOverflow
        { s with pc := BitVec.ofNat 16 ((s.pc.toNat + 2) % 0x1000), status := .faulted .stackOverflow })) ∨
    (decodeWord s.params.zeroDecode s.fetchWord = .ok .ret ∧ s.sp.val = 0 ∧
      step s = .fault (.stackUnderflow
        { s with pc := BitVec.ofNat 16 ((s.pc.toNat + 2) % 0x1000), status := .faulted .stackUnderflow })) ∨
    (s.params.unlisted = .refuse ∧ (∃ why, decodeWord s.params.zeroDecode s.fetchWord = .error why) ∧
      step s = .refused (.unlisted s.fetchWord))

/-! ## Control flow -/

/-- R130: a taken skip adds 2 to `pc`, reduced mod 0x1000, and changes nothing else; a skip not taken changes nothing. -/
def Obligations.SkipHelperAddsTwo : Prop :=
  ∀ s : State, s.skipIf true = { s with pc := BitVec.ofNat 16 ((s.pc.toNat + 2) % 0x1000) } ∧ s.skipIf false = s

/-- R131: RET, its encoding, its effect where an entry is live, its fault where none is. -/
def Obligations.ReturnPopsTheProgramCounter : Prop :=
  ∀ s : State,
    (∀ z, decodeWord z 0x00EE#16 = .ok .ret) ∧
    (∀ n : BitVec 4, decodeWord .lowByte (BitVec.ofNat 16 (n.toNat * 0x100 + 0xEE)) = .ok .ret) ∧
    (0 < s.sp.val → ∃ t, exec .ret s = .next t ∧ t.sp.val = s.sp.val - 1 ∧
      (∀ k : Fin 16, k.val + 1 = s.sp.val → t.pc.toNat = (s.stackEntry k).toNat % 0x1000) ∧
      (∀ k : Fin 16, t.stackEntry k = s.stackEntry k) ∧
      ChangesOnly { pc := true, stack := true } s t) ∧
    (s.sp.val = 0 → exec .ret s = .fault (.stackUnderflow { s with status := .faulted .stackUnderflow }))

/-- R132: JP nnn. -/
def Obligations.JumpLoadsTheProgramCounter : Prop :=
  ∀ (s : State) (nnn : Addr),
    (∀ z, decodeWord z (BitVec.ofNat 16 (0x1000 + nnn.toNat)) = .ok (.jp nnn)) ∧
    ∃ t, exec (.jp nnn) s = .next t ∧ t.pc.toNat = nnn.toNat ∧ ChangesOnly { pc := true } s t

/-- R133: CALL nnn pushes the address of the following word; on a full stack it faults. -/
def Obligations.CallPushesTheFollowingAddress : Prop :=
  ∀ (s : State) (nnn : Addr),
    (∀ z, decodeWord z (BitVec.ofNat 16 (0x2000 + nnn.toNat)) = .ok (.call nnn)) ∧
    (s.sp.val < 16 → ∃ t, exec (.call nnn) s = .next t ∧ t.pc.toNat = nnn.toNat ∧ t.sp.val = s.sp.val + 1 ∧
      (∀ k : Fin 16, t.stackEntry k = if k.val = s.sp.val then s.pc else s.stackEntry k) ∧
      ChangesOnly { pc := true, stack := true } s t) ∧
    (s.sp.val = 16 → exec (.call nnn) s = .fault (.stackOverflow { s with status := .faulted .stackOverflow }))

/-- R134, R135: the skips on an immediate. -/
def Obligations.ImmediateSkips : Prop :=
  ∀ (s : State) (x : Reg) (kk : Byte),
    (∀ z, decodeWord z (BitVec.ofNat 16 (0x3000 + x.val * 0x100 + kk.toNat)) = .ok (.seImm x kk)) ∧
    (∀ z, decodeWord z (BitVec.ofNat 16 (0x4000 + x.val * 0x100 + kk.toNat)) = .ok (.sneImm x kk)) ∧
    (∃ t, exec (.seImm x kk) s = .next t ∧ ChangesOnly { pc := true } s t ∧
      t.pc = if s.reg x = kk then BitVec.ofNat 16 ((s.pc.toNat + 2) % 0x1000) else s.pc) ∧
    (∃ t, exec (.sneImm x kk) s = .next t ∧ ChangesOnly { pc := true } s t ∧
      t.pc = if s.reg x ≠ kk then BitVec.ofNat 16 ((s.pc.toNat + 2) % 0x1000) else s.pc)

/-- R136, R137: the skips on two registers, for every value of the ignored nibble. -/
def Obligations.RegisterSkips : Prop :=
  ∀ (s : State) (x y : Reg),
    (∀ (z : ZeroDecode) (n : BitVec 4),
      decodeWord z (BitVec.ofNat 16 (0x5000 + x.val * 0x100 + y.val * 0x10 + n.toNat)) = .ok (.seReg x y)) ∧
    (∀ (z : ZeroDecode) (n : BitVec 4),
      decodeWord z (BitVec.ofNat 16 (0x9000 + x.val * 0x100 + y.val * 0x10 + n.toNat)) = .ok (.sneReg x y)) ∧
    (∃ t, exec (.seReg x y) s = .next t ∧ ChangesOnly { pc := true } s t ∧
      t.pc = if s.reg x = s.reg y then BitVec.ofNat 16 ((s.pc.toNat + 2) % 0x1000) else s.pc) ∧
    (∃ t, exec (.sneReg x y) s = .next t ∧ ChangesOnly { pc := true } s t ∧
      t.pc = if s.reg x ≠ s.reg y then BitVec.ofNat 16 ((s.pc.toNat + 2) % 0x1000) else s.pc)

/-- R138: jump-with-offset; V0 is the only offset, and the sum is reduced mod 0x1000. -/
def Obligations.JumpWithOffsetAddsV0 : Prop :=
  ∀ (s : State) (nnn : Addr),
    (∀ z, decodeWord z (BitVec.ofNat 16 (0xB000 + nnn.toNat)) = .ok (.jpV0 nnn)) ∧
    ∃ t, exec (.jpV0 nnn) s = .next t ∧ t.pc.toNat = (nnn.toNat + (s.reg 0).toNat) % 0x1000 ∧
      ChangesOnly { pc := true } s t

/-! ## Registers, arithmetic and logic -/

/-- R160: load-immediate. -/
def Obligations.LoadImmediate : Prop :=
  ∀ (s : State) (x : Reg) (kk : Byte),
    (∀ z, decodeWord z (BitVec.ofNat 16 (0x6000 + x.val * 0x100 + kk.toNat)) = .ok (.ldImm x kk)) ∧
    ∃ t, exec (.ldImm x kk) s = .next t ∧ t.reg x = kk ∧ ChangesOnly { regs := [x] } s t

/-- R161: add-immediate wraps and sets no flag. -/
def Obligations.AddImmediateWrapsWithoutFlag : Prop :=
  ∀ (s : State) (x : Reg) (kk : Byte),
    (∀ z, decodeWord z (BitVec.ofNat 16 (0x7000 + x.val * 0x100 + kk.toNat)) = .ok (.addImm x kk)) ∧
    ∃ t, exec (.addImm x kk) s = .next t ∧ (t.reg x).toNat = ((s.reg x).toNat + kk.toNat) % 256 ∧
      ChangesOnly { regs := [x] } s t

/-- R162: register move. -/
def Obligations.RegisterMove : Prop :=
  ∀ (s : State) (x y : Reg),
    (∀ z, decodeWord z (BitVec.ofNat 16 (0x8000 + x.val * 0x100 + y.val * 0x10)) = .ok (.ldReg x y)) ∧
    ∃ t, exec (.ldReg x y) s = .next t ∧ t.reg x = s.reg y ∧ ChangesOnly { regs := [x] } s t

/-- R163, R164, R165: the bitwise operations, bit by bit; no other register changes, VF among them unless it is Vx. -/
def Obligations.BitwiseOperations : Prop :=
  ∀ (s : State) (x y : Reg),
    (∀ z, decodeWord z (BitVec.ofNat 16 (0x8001 + x.val * 0x100 + y.val * 0x10)) = .ok (.orReg x y) ∧
      decodeWord z (BitVec.ofNat 16 (0x8002 + x.val * 0x100 + y.val * 0x10)) = .ok (.andReg x y) ∧
      decodeWord z (BitVec.ofNat 16 (0x8003 + x.val * 0x100 + y.val * 0x10)) = .ok (.xorReg x y)) ∧
    (∃ t, exec (.orReg x y) s = .next t ∧ ChangesOnly { regs := [x] } s t ∧
      ∀ b : Nat, (t.reg x).getLsbD b = ((s.reg x).getLsbD b || (s.reg y).getLsbD b)) ∧
    (∃ t, exec (.andReg x y) s = .next t ∧ ChangesOnly { regs := [x] } s t ∧
      ∀ b : Nat, (t.reg x).getLsbD b = ((s.reg x).getLsbD b && (s.reg y).getLsbD b)) ∧
    (∃ t, exec (.xorReg x y) s = .next t ∧ ChangesOnly { regs := [x] } s t ∧
      ∀ b : Nat, (t.reg x).getLsbD b = ((s.reg x).getLsbD b ^^ (s.reg y).getLsbD b))

/-- R168: the order in which a result and a flag are written, under both settings of `P_VF_ORDER`. -/
def Obligations.ResultAndFlagWriteOrder : Prop :=
  ∀ (s : State) (x : Reg) (result flag : Byte),
    (x ≠ 0xF → (s.writeResultFlag x result flag).reg x = result ∧ (s.writeResultFlag x result flag).reg 0xF = flag) ∧
    (x = 0xF → s.params.vfOrder = .flagLast → (s.writeResultFlag x result flag).reg 0xF = flag) ∧
    (x = 0xF → s.params.vfOrder = .resultLast → (s.writeResultFlag x result flag).reg 0xF = result) ∧
    ChangesOnly { regs := [x, 0xF] } s (s.writeResultFlag x result flag)

/-- R170: add-registers, the sum mod 256 and the carry, for every pair of registers and both settings of `P_VF_ORDER`. -/
def Obligations.AddRegistersWrapsAndCarries : Prop :=
  ∀ (s : State) (x y : Reg),
    (∀ z, decodeWord z (BitVec.ofNat 16 (0x8004 + x.val * 0x100 + y.val * 0x10)) = .ok (.addReg x y)) ∧
    ∃ t, exec (.addReg x y) s = .next t ∧ ChangesOnly { regs := [x, 0xF] } s t ∧
      (x ≠ 0xF → (t.reg x).toNat = ((s.reg x).toNat + (s.reg y).toNat) % 256) ∧
      (x = 0xF → s.params.vfOrder = .resultLast → (t.reg 0xF).toNat = ((s.reg x).toNat + (s.reg y).toNat) % 256) ∧
      (x ≠ 0xF ∨ s.params.vfOrder = .flagLast →
        t.reg 0xF = if (s.reg x).toNat + (s.reg y).toNat > 255 then 1 else 0)

/-- R172: subtract, the wrapped difference in Vx and NOT borrow in VF. -/
def Obligations.SubtractWrapsAndClearsFlagOnBorrow : Prop :=
  ∀ (s : State) (x y : Reg),
    (∀ z, decodeWord z (BitVec.ofNat 16 (0x8005 + x.val * 0x100 + y.val * 0x10)) = .ok (.sub x y)) ∧
    ∃ t, exec (.sub x y) s = .next t ∧ ChangesOnly { regs := [x, 0xF] } s t ∧
      (x ≠ 0xF → ((t.reg x).toNat : Int) = (((s.reg x).toNat : Int) - ((s.reg y).toNat : Int)) % 256) ∧
      (x = 0xF → s.params.vfOrder = .resultLast →
        ((t.reg 0xF).toNat : Int) = (((s.reg x).toNat : Int) - ((s.reg y).toNat : Int)) % 256) ∧
      (x ≠ 0xF ∨ s.params.vfOrder = .flagLast →
        t.reg 0xF = if (s.reg x).toNat ≥ (s.reg y).toNat then 1 else 0)

/-- R174: subtract-reverse, the wrapped difference Vy - Vx in Vx and its NOT borrow in VF. -/
def Obligations.SubtractReverseWrapsAndClearsFlagOnBorrow : Prop :=
  ∀ (s : State) (x y : Reg),
    (∀ z, decodeWord z (BitVec.ofNat 16 (0x8007 + x.val * 0x100 + y.val * 0x10)) = .ok (.subn x y)) ∧
    ∃ t, exec (.subn x y) s = .next t ∧ ChangesOnly { regs := [x, 0xF] } s t ∧
      (x ≠ 0xF → ((t.reg x).toNat : Int) = (((s.reg y).toNat : Int) - ((s.reg x).toNat : Int)) % 256) ∧
      (x = 0xF → s.params.vfOrder = .resultLast →
        ((t.reg 0xF).toNat : Int) = (((s.reg y).toNat : Int) - ((s.reg x).toNat : Int)) % 256) ∧
      (x ≠ 0xF ∨ s.params.vfOrder = .flagLast →
        t.reg 0xF = if (s.reg y).toNat ≥ (s.reg x).toNat then 1 else 0)

/-! ## Index and random -/

/-- R200: load-index, and no other instruction writes `I`. -/
def Obligations.LoadIndex : Prop :=
  ∀ (s : State) (nnn : Addr),
    (∀ z, decodeWord z (BitVec.ofNat 16 (0xA000 + nnn.toNat)) = .ok (.ldI nnn)) ∧
    (∃ t, exec (.ldI nnn) s = .next t ∧ t.I.toNat = nnn.toNat ∧ ChangesOnly { index := true } s t) ∧
    (∀ (i : Instr) (t : State), (∀ a, i ≠ .ldI a) → exec i s = .next t → t.I = s.I)

/-- Derived (R201): RND stores the draw ANDed with `kk` and takes a fresh draw each time. `Config.randomByte` is opaque, so this
holds for every draw. That the draw is numbered by the counter `draws`, which RND advances, is the model's choice
(assumption log 2). -/
def Obligations.RandomByteIsMasked : Prop :=
  ∀ (s : State) (x : Reg) (kk : Byte),
    (∀ z, decodeWord z (BitVec.ofNat 16 (0xC000 + x.val * 0x100 + kk.toNat)) = .ok (.rnd x kk)) ∧
    ∃ t, exec (.rnd x kk) s = .next t ∧ t.reg x = Config.randomByte s.draws &&& kk ∧ t.reg x &&& ~~~kk = 0 ∧
      t.draws = s.draws + 1 ∧ ChangesOnly { regs := [x], draws := true } s t

/-! ## Display -/

/-- R210: clear-screen. -/
def Obligations.ClearScreenTurnsEveryPixelOff : Prop :=
  ∀ s : State,
    (∀ z, decodeWord z 0x00E0#16 = .ok .cls) ∧
    (∀ n : BitVec 4, decodeWord .lowByte (BitVec.ofNat 16 (n.toNat * 0x100 + 0xE0)) = .ok .cls) ∧
    ∃ t, exec .cls s = .next t ∧ (∀ (y : Fin 32) (x : Fin 64), t.pixel y x = false) ∧ ChangesOnly { fb := true } s t

/-- R214 (with the positions of R213): draw-sprite toggles exactly the pixels its set bits fall on, each one once, and VF is 1
exactly when one of them was on. -/
def Obligations.DrawTogglesExactlyTheSprite : Prop :=
  ∀ (s : State) (x y : Reg) (n : BitVec 4),
    (∀ z, decodeWord z (BitVec.ofNat 16 (0xD000 + x.val * 0x100 + y.val * 0x10 + n.toNat)) = .ok (.drw x y n.toNat)) ∧
    ∃ t, exec (.drw x y n.toNat) s = .next t ∧ ChangesOnly { regs := [0xF], fb := true } s t ∧
      (∀ py px, SpritePixel s x y n.toNat py px → t.pixel py px = !s.pixel py px) ∧
      (∀ py px, ¬ SpritePixel s x y n.toNat py px → t.pixel py px = s.pixel py px) ∧
      ((t.reg 0xF = 1 ∧ ∃ py px, SpritePixel s x y n.toNat py px ∧ s.pixel py px = true) ∨
       (t.reg 0xF = 0 ∧ ∀ py px, SpritePixel s x y n.toNat py px → s.pixel py px = false))

/-- Derived (R215 law 2): where the first draw leaves both coordinates as they were, drawing the same sprite again restores the
grid, and the second VF is 1 exactly when some set bit's pixel was off before the first draw. Coordinates not in VF are always
left so. With a coordinate in VF the law holds where the first draw's flag did not change it. -/
def Obligations.DoubleDrawRestoresTheScreen : Prop :=
  ∀ (s : State) (x y : Reg) (n : BitVec 4), ∃ t, exec (.drw x y n.toNat) s = .next t ∧
    (x ≠ 0xF → t.reg x = s.reg x) ∧ (y ≠ 0xF → t.reg y = s.reg y) ∧
    (t.reg x = s.reg x → t.reg y = s.reg y → ∃ u, exec (.drw x y n.toNat) t = .next u ∧
      (∀ py px, u.pixel py px = s.pixel py px) ∧
      ((u.reg 0xF = 1 ∧ ∃ py px, SpritePixel s x y n.toNat py px ∧ s.pixel py px = false) ∨
       (u.reg 0xF = 0 ∧ ∀ py px, SpritePixel s x y n.toNat py px → s.pixel py px = true)))

/-! ## Faults -/

/-- Derived (R240, D14): a cycle of a running core ends in StackOverflow exactly when it fetches CALL with a full stack. Then the code is 1,
every field but the status is as after the advance, the instruction's address is recoverable from `pc` (which lies below
0x1000), and there is no further cycle. -/
def Obligations.CallOnAFullStackOverflows : Prop :=
  ∀ s : State, s.status = .running → s.pc.toNat < 0x1000 →
    ((∃ t, step s = .fault (.stackOverflow t)) ↔
      s.sp.val = 16 ∧ ∃ nnn, decodeWord s.params.zeroDecode s.fetchWord = .ok (.call nnn)) ∧
    ∀ t, step s = .fault (.stackOverflow t) →
      t = { s with pc := BitVec.ofNat 16 ((s.pc.toNat + 2) % 0x1000), status := .faulted .stackOverflow } ∧
      t.status.code = 1 ∧ t.faultAddress = s.pc ∧ step t = .fault (.halted .stackOverflow)

/-- Derived (R241, D14): a cycle of a running core ends in StackUnderflow exactly when it fetches RET with an empty stack, with code 2 and
otherwise as R240. -/
def Obligations.ReturnOnAnEmptyStackUnderflows : Prop :=
  ∀ s : State, s.status = .running → s.pc.toNat < 0x1000 →
    ((∃ t, step s = .fault (.stackUnderflow t)) ↔
      s.sp.val = 0 ∧ decodeWord s.params.zeroDecode s.fetchWord = .ok .ret) ∧
    ∀ t, step s = .fault (.stackUnderflow t) →
      t = { s with pc := BitVec.ofNat 16 ((s.pc.toNat + 2) % 0x1000), status := .faulted .stackUnderflow } ∧
      t.status.code = 2 ∧ t.faultAddress = s.pc ∧ step t = .fault (.halted .stackUnderflow)

/-! ## The whole machine -/

/-- Derived (R35): an instruction that gives a next state writes the fields of its row of the access matrix, no others. -/
def Obligations.InstructionsWriteOnlyTheirFields : Prop :=
  ∀ (i : Instr) (s t : State), exec i s = .next t → ChangesOnly i.writes s t

/-- Derived (R22, R23, R35): a register an instruction does not read has no influence on it. Where the instruction does not
write it either, the outcome is the same but for that register; where it writes it, the outcome is the same. So only Bnnn
reads V0 unnamed, and no instruction reads VF unnamed. -/
def Obligations.UnreadRegistersHaveNoInfluence : Prop :=
  ∀ (i : Instr) (s : State) (r : Reg) (v : Byte), r ∉ i.readRegs →
    (r ∉ i.writes.regs → exec i (s.writeReg r v) = mapResult (fun t => t.writeReg r v) (exec i s)) ∧
    (r ∈ i.writes.regs → exec i (s.writeReg r v) = exec i s)

/-- Derived (R117, R201): no instruction but RND reads or consumes the draw. The counter is the model's own field
(assumption log 2). -/
def Obligations.OnlyRndReadsTheDraw : Prop :=
  ∀ (i : Instr) (s : State) (k : Nat), (∀ x kk, i ≠ .rnd x kk) →
    exec i { s with draws := k } = mapResult (fun t => { t with draws := k }) (exec i s)

/-- Derived (R29, R30, R251, R252, R287): what the host does to the timers and the keypad between cycles has no influence on a
cycle: it commutes with it, faults and refusals included. -/
def Obligations.HostMovesCommuteWithTheCycle : Prop :=
  ∀ (m : HostMove) (s : State), step (s.hostMove m) = mapResult (fun t => t.hostMove m) (step s)

/-- R115: a cycle, completed or faulted, does not touch the timers or the keypad. -/
def Obligations.CycleLeavesTimersAndKeypad : Prop :=
  ∀ s t : State, (step s = .next t ∨ ∃ f, step s = .fault f ∧ f.final = some t) →
    t.delay = s.delay ∧ t.sound = s.sound ∧ t.keypad = s.keypad

/-- Derived (R53, R62): no run of cycles changes a byte of memory, and neither does a fault. -/
def Obligations.RunsNeverWriteMemory : Prop :=
  (∀ (k : Nat) (s t : State), cycles k s = .next t → t.mem = s.mem) ∧
  (∀ (k : Nat) (s t : State) (f : Fault), cycles k s = .fault f → f.final = some t → t.mem = s.mem)

/-- Derived (R24, R26, R27, R50): the invariant is kept by every cycle, a faulting one included: `pc`, `I` and every return
address below 0x1000, memory in canonical form. -/
def Obligations.StepKeepsTheInvariant : Prop :=
  ∀ s t : State, s.Inv → (step s = .next t ∨ ∃ f, step s = .fault f ∧ f.final = some t) → t.Inv

/-- Derived (R34): the state after reset meets the invariant. -/
def Obligations.ResetMeetsTheInvariant : Prop := State.reset.Inv

/-- Derived (R34, R280): every constructed state meets the invariant, for every setting of the parameters, every draw of the
reset values and every ROM. That drawn values of `I` and the stack have twelve bits is the model's choice
(assumption log 6). -/
def Obligations.ConstructedStatesMeetTheInvariant : Prop :=
  ∀ (p : Params) (d : ResetDraws) (rom : List Byte) (s : State), State.construct p d rom = .ok s → s.Inv

/-- Derived (R257, D21): from a parked state every further cycle leaves the whole state unchanged. -/
def Obligations.ParkedStatesStay : Prop :=
  ∀ (s : State) (k : Nat), s.parked → cycles k s = .next s

/-- Derived (R139): a CALL followed by the RET at its target restores `sp` and continues at the word after the CALL. -/
def Obligations.CallThenReturnResumes : Prop :=
  ∀ (s : State) (nnn : Addr), s.status = .running → s.sp.val < 16 → s.fetchWord = BitVec.ofNat 16 (0x2000 + nnn.toNat) →
    s.memRead (nnn.setWidth 16) = 0x00#8 → s.memRead (nnn.setWidth 16 + 1) = 0xEE#8 →
    ∃ t, cycles 2 s = .next t ∧ t.pc.toNat = (s.pc.toNat + 2) % 0x1000 ∧ t.sp = s.sp ∧
      ∀ r, t.reg r = s.reg r

/-- Derived (R21): a general register reads as the value last written to it, whichever of the sixteen it is, and a write
changes no other register. -/
def Obligations.RegistersAreSixteenIndependentCells : Prop :=
  ∀ (s : State) (x r : Reg) (v : Byte), (s.writeReg x v).reg r = if r = x then v else s.reg r

/-! ## Reset, construction, host interface -/

/-- Derived (R34, R8, D12): the state after reset. The zeros, the entry point and the default parameters are the spec's
decisions; the draw counter's 0 is the model's (assumption log 2) and nothing is said of it. -/
def Obligations.ResetState : Prop :=
  (∀ r, State.reset.reg r = 0) ∧ State.reset.I = 0 ∧ State.reset.pc = 0x0200 ∧ State.reset.sp = 0 ∧
  (∀ k, State.reset.stackEntry k = 0) ∧ (∀ y x, State.reset.pixel y x = false) ∧
  State.reset.delay = 0 ∧ State.reset.sound = 0 ∧ (∀ k : Fin 16, State.reset.keypad.get k = false) ∧
  State.reset.status = .running ∧
  State.reset.params = { unlisted := .nop, zeroDecode := .lowByte, vfOrder := .flagLast, resetValues := .zero } ∧
  (∀ a : Word, a.toNat % 0x1000 < 0x050 ∨ 0x0A0 ≤ a.toNat % 0x1000 → State.reset.memRead a = 0)

/-- Derived (R57, D13; the font bytes are the spec's general knowledge): the font at 0x050 after reset. -/
def Obligations.FontAfterReset : Prop :=
  (List.range 80).map (fun i => State.reset.memRead (BitVec.ofNat 16 (0x050 + i))) =
    [0xF0, 0x90, 0x90, 0x90, 0xF0, 0x20, 0x60, 0x20, 0x20, 0x70, 0xF0, 0x10, 0xF0, 0x80, 0xF0, 0xF0, 0x10, 0xF0, 0x10, 0xF0] ++
    [0x90, 0x90, 0xF0, 0x10, 0x10, 0xF0, 0x80, 0xF0, 0x10, 0xF0, 0xF0, 0x80, 0xF0, 0x90, 0xF0, 0xF0, 0x10, 0x20, 0x40, 0x40] ++
    [0xF0, 0x90, 0xF0, 0x90, 0xF0, 0xF0, 0x90, 0xF0, 0x10, 0xF0, 0xF0, 0x90, 0xF0, 0x90, 0x90, 0xE0, 0x90, 0xE0, 0x90, 0xE0] ++
    [0xF0, 0x80, 0x80, 0x80, 0xF0, 0xE0, 0x90, 0x90, 0x90, 0xE0, 0xF0, 0x80, 0xF0, 0x80, 0xF0, 0xF0, 0x80, 0xF0, 0x80, 0x80]

/-- Derived (R280, R34): the construction sequence with the default parameters and an empty ROM gives the reset state. -/
def Obligations.DefaultConstructionIsReset : Prop :=
  ∀ d : ResetDraws, State.construct Params.default d [] = .ok State.reset

/-- Derived (R281): the loaded bytes stand at 0x200 onwards, and loading them changes no other byte and no other field. -/
def Obligations.LoaderCopiesTheRom : Prop :=
  ∀ (p : Params) (d : ResetDraws) (rom : List Byte) (s e : State),
    State.construct p d rom = .ok s → State.construct p d [] = .ok e →
    (∀ i : Nat, ∀ h : i < rom.length, s.memRead (BitVec.ofNat 16 (0x200 + i)) = rom[i]) ∧
    (∀ a : Word, a.toNat < 0x200 ∨ 0x200 + rom.length ≤ a.toNat → a.toNat < 0x1000 → s.memRead a = e.memRead a) ∧
    s = { e with mem := s.mem }

/-- Derived (R282, D18): a launch is described exactly when the ROM has at most 3584 bytes; the empty ROM is legal. -/
def Obligations.LongRomsAreRefused : Prop :=
  ∀ (p : Params) (d : ResetDraws) (rom : List Byte),
    (rom.length ≤ 3584 → ∃ s, State.construct p d rom = .ok s) ∧
    (3584 < rom.length → State.construct p d rom = .error (.romTooLong rom.length))

/-- Derived (R34, D12): under `P_RESET_VALUES = arbitrary` the fields the source gives no value for are the drawn ones, while
`pc`, `status` and the font are as always; every byte outside the font can be drawn at will. -/
def Obligations.ArbitraryResetDrawsTheOpenFields : Prop :=
  (∀ (p : Params) (d : ResetDraws) (s : State), p.resetValues = .arbitrary → State.construct p d [] = .ok s →
    s.V = d.V ∧ s.I.toNat = d.I.toNat ∧ s.sp = d.sp ∧ (∀ k, (s.stackEntry k).toNat = (d.stack.get k).toNat) ∧
    s.fb = d.fb ∧ s.delay = d.delay ∧ s.sound = d.sound ∧ s.keypad = d.keypad ∧
    s.pc = 0x0200 ∧ s.status = .running ∧ s.params = p ∧
    ∀ i : Nat, i < 80 → s.memRead (BitVec.ofNat 16 (0x050 + i)) = State.reset.memRead (BitVec.ofNat 16 (0x050 + i))) ∧
  (∀ (p : Params) (a : Word) (v : Byte), p.resetValues = .arbitrary → a.toNat < 0x050 ∨ 0x0A0 ≤ a.toNat → a.toNat < 0x1000 →
    ∃ d s, State.construct p d [] = .ok s ∧ s.memRead a = v)

/-- Derived (R28, R250, D27): the host reads 2048 pixels, row-major, pixel (x, y) at index `y*64 + x`. -/
def Obligations.FramebufferReadPortIsRowMajor : Prop :=
  ∀ s : State, s.fbRead.length = 2048 ∧
    ∀ (y : Fin 32) (x : Fin 64), s.fbRead[y.val * 64 + x.val]? = some (s.pixel y x)

/-- Derived (20_memory.md section 1; the canonical form is the model's, assumption log 8): memories in canonical form that
read alike everywhere are the same data. -/
def Obligations.CanonicalMemoriesAreEqualWhenTheyReadAlike : Prop :=
  ∀ m m' : Memory, Memory.wf m = true → Memory.wf m' = true →
    (∀ a, a < 4096 → Memory.read m a = Memory.read m' a) → m = m'
end

