-- ==== Sys2Proof/Laws/PerInstr.lean ====
section
/-! SUPPORT. Statements made per instruction. Family OpcodeRow: the word the encoder writes for an instruction lies in that
instruction's row of the opcode table (spec 30_encoding.md R85), under both settings of `P_ZERO_DECODE`. -/

/-- The encoded word of `i` lies in the table row with `i`'s mnemonic. -/
def Sys2Proof.Laws.OpcodeRow.Statement (i : Sys2Proof.Instr) : Prop :=
  ∀ z : Sys2Proof.ZeroDecode, ∃ row ∈ Sys2Proof.opcodeTable z,
    row.mnemonic = i.mnemonic ∧ row.holds (Sys2Proof.encode i) = true

namespace Sys2Proof.Laws.OpcodeRow

theorem mask_F000 : ∀ (i : Nat) (h : i < 16), (0xF000#16)[i] = decide (12 ≤ i) := by decide

theorem mask_F00F : ∀ (i : Nat) (h : i < 16), (0xF00F#16)[i] = (decide (i < 4) || decide (12 ≤ i)) := by decide

theorem regField_zero : ∀ (i : Nat) (h : i < 4), (regField 0)[i] = false := by decide

/-- The top nibble of a word in `NNN` format is its opcode. -/
theorem formNNN_and (op : BitVec 4) (nnn : Addr) : formNNN op nnn &&& 0xF000#16 = formNNN op 0 := by
  unfold formNNN
  ext i hi
  rw [BitVec.getElem_and, mask_F000, BitVec.getElem_append, BitVec.getElem_append]
  by_cases h : i < 12
  · simp [h]
  · simp [h, Nat.le_of_not_lt h]

/-- The top nibble of a word in `XKK` format is its opcode. -/
theorem formXKK_and (op : BitVec 4) (x : Reg) (kk : Byte) : formXKK op x kk &&& 0xF000#16 = formNNN op 0 := by
  rw [← formNNN_and op (regField x ++ kk)]
  congr 1
  exact BitVec.append_assoc

/-- The top nibble of a word in `XYN` format is its opcode. -/
theorem formXYN_top (op : BitVec 4) (x y : Reg) (n : Nat) : formXYN op x y n &&& 0xF000#16 = formNNN op 0 := by
  rw [← formNNN_and op (regField x ++ regField y ++ BitVec.ofNat 4 n)]
  congr 1
  unfold formXYN formNNN
  rw [BitVec.append_assoc, BitVec.append_assoc, BitVec.append_assoc]
  rfl

/-- The bits of a word in `XYN` format, field by field (R81). -/
theorem formXYN_getElem (op : BitVec 4) (x y : Reg) (n i : Nat) (hi : i < 16) :
    (formXYN op x y n)[i] =
      if h : i < 4 then (BitVec.ofNat 4 n)[i] else if h' : i - 4 < 4 then (regField y)[i - 4]
      else if h'' : i - 4 - 4 < 4 then (regField x)[i - 4 - 4] else op[i - 4 - 4 - 4] := by
  have hi' : i < 4 + 4 + 4 + 4 := hi
  show (op ++ regField x ++ regField y ++ BitVec.ofNat 4 n)[i] = _
  simp only [BitVec.getElem_append]

/-- The top and bottom nibbles of a word in `XY` format are its opcode and its sub-operation. -/
theorem formXYN_and (op : BitVec 4) (x y : Reg) (n : Nat) : formXYN op x y n &&& 0xF00F#16 = formXYN op 0 0 n := by
  ext i hi
  rw [BitVec.getElem_and, mask_F00F, formXYN_getElem, formXYN_getElem]
  by_cases h : i < 4
  · simp [h]
  · by_cases h8 : i - 4 < 4
    · have h12 : ¬ 12 ≤ i := by omega
      simp [h, h8, h12, regField_zero]
    · by_cases h12 : i - 4 - 4 < 4
      · have h12' : ¬ 12 ≤ i := by omega
        simp [h, h8, h12, h12', regField_zero]
      · have h12' : 12 ≤ i := by omega
        simp [h, h8, h12, h12']

theorem cls : Statement (.cls) := by intro z; cases z <;> decide

theorem ret : Statement (.ret) := by intro z; cases z <;> decide

theorem jp (nnn : Addr) : Statement (.jp nnn) := fun z =>
  ⟨⟨"JP", 0x1000#16, 0xF000#16⟩, by cases z <;> decide, rfl, by
    simp only [OpcodeRow.holds, encode, formNNN_and]; decide⟩

theorem call (nnn : Addr) : Statement (.call nnn) := fun z =>
  ⟨⟨"CALL", 0x2000#16, 0xF000#16⟩, by cases z <;> decide, rfl, by
    simp only [OpcodeRow.holds, encode, formNNN_and]; decide⟩

theorem seImm (x : Reg) (kk : Byte) : Statement (.seImm x kk) := fun z =>
  ⟨⟨"SE_imm", 0x3000#16, 0xF000#16⟩, by cases z <;> decide, rfl, by
    simp only [OpcodeRow.holds, encode, formXKK_and]; decide⟩

theorem sneImm (x : Reg) (kk : Byte) : Statement (.sneImm x kk) := fun z =>
  ⟨⟨"SNE_imm", 0x4000#16, 0xF000#16⟩, by cases z <;> decide, rfl, by
    simp only [OpcodeRow.holds, encode, formXKK_and]; decide⟩

theorem seReg (x y : Reg) : Statement (.seReg x y) := fun z =>
  ⟨⟨"SE_reg", 0x5000#16, 0xF000#16⟩, by cases z <;> decide, rfl, by
    simp only [OpcodeRow.holds, encode, formXYN_top]; decide⟩

theorem ldImm (x : Reg) (kk : Byte) : Statement (.ldImm x kk) := fun z =>
  ⟨⟨"LD_imm", 0x6000#16, 0xF000#16⟩, by cases z <;> decide, rfl, by
    simp only [OpcodeRow.holds, encode, formXKK_and]; decide⟩

theorem addImm (x : Reg) (kk : Byte) : Statement (.addImm x kk) := fun z =>
  ⟨⟨"ADD_imm", 0x7000#16, 0xF000#16⟩, by cases z <;> decide, rfl, by
    simp only [OpcodeRow.holds, encode, formXKK_and]; decide⟩

theorem ldReg (x y : Reg) : Statement (.ldReg x y) := fun z =>
  ⟨⟨"LD_reg", 0x8000#16, 0xF00F#16⟩, by cases z <;> decide, rfl, by
    simp only [OpcodeRow.holds, encode, formXYN_and]; decide⟩

theorem orReg (x y : Reg) : Statement (.orReg x y) := fun z =>
  ⟨⟨"OR", 0x8001#16, 0xF00F#16⟩, by cases z <;> decide, rfl, by
    simp only [OpcodeRow.holds, encode, formXYN_and]; decide⟩

theorem andReg (x y : Reg) : Statement (.andReg x y) := fun z =>
  ⟨⟨"AND", 0x8002#16, 0xF00F#16⟩, by cases z <;> decide, rfl, by
    simp only [OpcodeRow.holds, encode, formXYN_and]; decide⟩

theorem xorReg (x y : Reg) : Statement (.xorReg x y) := fun z =>
  ⟨⟨"XOR", 0x8003#16, 0xF00F#16⟩, by cases z <;> decide, rfl, by
    simp only [OpcodeRow.holds, encode, formXYN_and]; decide⟩

theorem addReg (x y : Reg) : Statement (.addReg x y) := fun z =>
  ⟨⟨"ADD_reg", 0x8004#16, 0xF00F#16⟩, by cases z <;> decide, rfl, by
    simp only [OpcodeRow.holds, encode, formXYN_and]; decide⟩

theorem sub (x y : Reg) : Statement (.sub x y) := fun z =>
  ⟨⟨"SUB", 0x8005#16, 0xF00F#16⟩, by cases z <;> decide, rfl, by
    simp only [OpcodeRow.holds, encode, formXYN_and]; decide⟩

theorem subn (x y : Reg) : Statement (.subn x y) := fun z =>
  ⟨⟨"SUBN", 0x8007#16, 0xF00F#16⟩, by cases z <;> decide, rfl, by
    simp only [OpcodeRow.holds, encode, formXYN_and]; decide⟩

theorem sneReg (x y : Reg) : Statement (.sneReg x y) := fun z =>
  ⟨⟨"SNE_reg", 0x9000#16, 0xF000#16⟩, by cases z <;> decide, rfl, by
    simp only [OpcodeRow.holds, encode, formXYN_top]; decide⟩

theorem ldI (nnn : Addr) : Statement (.ldI nnn) := fun z =>
  ⟨⟨"LD_I", 0xA000#16, 0xF000#16⟩, by cases z <;> decide, rfl, by
    simp only [OpcodeRow.holds, encode, formNNN_and]; decide⟩

theorem jpV0 (nnn : Addr) : Statement (.jpV0 nnn) := fun z =>
  ⟨⟨"JP_V0", 0xB000#16, 0xF000#16⟩, by cases z <;> decide, rfl, by
    simp only [OpcodeRow.holds, encode, formNNN_and]; decide⟩

theorem rnd (x : Reg) (kk : Byte) : Statement (.rnd x kk) := fun z =>
  ⟨⟨"RND", 0xC000#16, 0xF000#16⟩, by cases z <;> decide, rfl, by
    simp only [OpcodeRow.holds, encode, formXKK_and]; decide⟩

theorem drw (x y : Reg) (n : Nat) : Statement (.drw x y n) := fun z =>
  ⟨⟨"DRW", 0xD000#16, 0xF000#16⟩, by cases z <;> decide, rfl, by
    simp only [OpcodeRow.holds, encode, formXYN_top]; decide⟩

end Sys2Proof.Laws.OpcodeRow
end

