-- ==== Sys2Proof/Laws/Decode.lean ====
section
/-! SUPPORT. The fields of a word, and the words of the formats, as numbers (spec 30_encoding.md R81, R82): with these a
claim about decoding is arithmetic on the word's value. -/

namespace Sys2Proof

theorem fieldOp_eq (w : Word) : fieldOp w = w.toNat / 0x1000 := by
  have := w.isLt
  simp only [fieldOp, BitVec.extractLsb'_toNat, Nat.shiftRight_eq_div_pow]
  omega

theorem fieldX_val (w : Word) : (fieldX w).val = w.toNat / 0x100 % 16 := by
  show (w.extractLsb' 8 4).toNat = _
  simp only [BitVec.extractLsb'_toNat, Nat.shiftRight_eq_div_pow]

theorem fieldY_val (w : Word) : (fieldY w).val = w.toNat / 0x10 % 16 := by
  show (w.extractLsb' 4 4).toNat = _
  simp only [BitVec.extractLsb'_toNat, Nat.shiftRight_eq_div_pow]

theorem fieldN_eq (w : Word) : fieldN w = w.toNat % 16 := by
  simp only [fieldN, BitVec.extractLsb'_toNat, Nat.shiftRight_eq_div_pow]
  omega

theorem fieldKK_toNat (w : Word) : (fieldKK w).toNat = w.toNat % 0x100 := by
  simp only [fieldKK, BitVec.extractLsb'_toNat, Nat.shiftRight_eq_div_pow]
  omega

theorem fieldNNN_toNat (w : Word) : (fieldNNN w).toNat = w.toNat % 0x1000 := by
  simp only [fieldNNN, BitVec.extractLsb'_toNat, Nat.shiftRight_eq_div_pow]
  omega

/-- Appending below is multiplying and adding. -/
theorem toNat_append_eq {n m : Nat} (a : BitVec n) (b : BitVec m) : (a ++ b).toNat = a.toNat * 2 ^ m + b.toNat := by
  rw [BitVec.toNat_append, Nat.shiftLeft_eq, Nat.mul_comm, Nat.two_pow_add_eq_or_of_lt b.isLt]

theorem formNNN_toNat (op : BitVec 4) (nnn : Addr) : (formNNN op nnn).toNat = op.toNat * 0x1000 + nnn.toNat :=
  toNat_append_eq op nnn

theorem formXKK_toNat (op : BitVec 4) (x : Reg) (kk : Byte) :
    (formXKK op x kk).toNat = op.toNat * 0x1000 + x.val * 0x100 + kk.toNat := by
  have h : (formXKK op x kk).toNat = (op ++ regField x).toNat * 2 ^ 8 + kk.toNat := toNat_append_eq _ _
  have hx : (regField x).toNat = x.val := rfl
  rw [h, toNat_append_eq, hx]
  omega

theorem formXYN_toNat (op : BitVec 4) (x y : Reg) (n : Nat) :
    (formXYN op x y n).toNat = op.toNat * 0x1000 + x.val * 0x100 + y.val * 0x10 + n % 16 := by
  have h : (formXYN op x y n).toNat = (op ++ regField x ++ regField y).toNat * 2 ^ 4 + (BitVec.ofNat 4 n).toNat :=
    toNat_append_eq _ _
  have hx : (regField x).toNat = x.val := rfl
  have hy : (regField y).toNat = y.val := rfl
  rw [h, toNat_append_eq, toNat_append_eq, hx, hy, BitVec.toNat_ofNat]
  omega

theorem joinBytes_toNat (hi lo : Byte) : (joinBytes hi lo).toNat = hi.toNat * 0x100 + lo.toNat := toNat_append_eq hi lo

theorem highByte_toNat (w : Word) : (highByte w).toNat = w.toNat / 0x100 := by
  have := w.isLt
  simp only [highByte, BitVec.extractLsb'_toNat, Nat.shiftRight_eq_div_pow]
  omega

theorem lowByte_toNat (w : Word) : (lowByte w).toNat = w.toNat % 0x100 := by
  simp only [lowByte, BitVec.extractLsb'_toNat, Nat.shiftRight_eq_div_pow]
  omega

/-- The two bytes of a word join to it again (R54). -/
@[simp] theorem joinBytes_high_low (w : Word) : joinBytes (highByte w) (lowByte w) = w := by
  apply BitVec.eq_of_toNat_eq
  rw [joinBytes_toNat, highByte_toNat, lowByte_toNat]
  omega

end Sys2Proof
end

