-- ==== Sys2Proof/Laws/State.lean ====
section
/-! SUPPORT. One lemma per field per update of the state, so that no later proof unfolds a record update. A field or
reader an update does not name is kept; the last section treats the updates with a case inside. -/

namespace Sys2Proof.Machine

variable (s : State)

/-! ## writeReg -/

@[simp] theorem State.writeReg_V (x : Reg) (v : Byte) : (s.writeReg x v).V = s.V.set x.val v x.isLt := rfl
@[simp] theorem State.writeReg_mem (x : Reg) (v : Byte) : (s.writeReg x v).mem = s.mem := rfl
@[simp] theorem State.writeReg_I (x : Reg) (v : Byte) : (s.writeReg x v).I = s.I := rfl
@[simp] theorem State.writeReg_pc (x : Reg) (v : Byte) : (s.writeReg x v).pc = s.pc := rfl
@[simp] theorem State.writeReg_stack (x : Reg) (v : Byte) : (s.writeReg x v).stack = s.stack := rfl
@[simp] theorem State.writeReg_sp (x : Reg) (v : Byte) : (s.writeReg x v).sp = s.sp := rfl
@[simp] theorem State.writeReg_fb (x : Reg) (v : Byte) : (s.writeReg x v).fb = s.fb := rfl
@[simp] theorem State.writeReg_delay (x : Reg) (v : Byte) : (s.writeReg x v).delay = s.delay := rfl
@[simp] theorem State.writeReg_sound (x : Reg) (v : Byte) : (s.writeReg x v).sound = s.sound := rfl
@[simp] theorem State.writeReg_keypad (x : Reg) (v : Byte) : (s.writeReg x v).keypad = s.keypad := rfl
@[simp] theorem State.writeReg_status (x : Reg) (v : Byte) : (s.writeReg x v).status = s.status := rfl
@[simp] theorem State.writeReg_params (x : Reg) (v : Byte) : (s.writeReg x v).params = s.params := rfl
@[simp] theorem State.writeReg_draws (x : Reg) (v : Byte) : (s.writeReg x v).draws = s.draws := rfl
@[simp] theorem State.writeReg_memRead (x : Reg) (v : Byte) (b : Word) :
    (s.writeReg x v).memRead b = s.memRead b := rfl
@[simp] theorem State.writeReg_stackEntry (x : Reg) (v : Byte) (k : Fin 16) :
    (s.writeReg x v).stackEntry k = s.stackEntry k := rfl
@[simp] theorem State.writeReg_pixel (x : Reg) (v : Byte) (y : Fin 32) (x' : Fin 64) :
    (s.writeReg x v).pixel y x' = s.pixel y x' := rfl
@[simp] theorem State.writeReg_draw (x : Reg) (v : Byte) :
    (s.writeReg x v).draw = s.draw := rfl

/-! ## memWrite -/

@[simp] theorem State.memWrite_V (a : Word) (v : Byte) : (s.memWrite a v).V = s.V := rfl
@[simp] theorem State.memWrite_mem (a : Word) (v : Byte) : (s.memWrite a v).mem = Memory.write s.mem (maskAddr a).toNat v := rfl
@[simp] theorem State.memWrite_I (a : Word) (v : Byte) : (s.memWrite a v).I = s.I := rfl
@[simp] theorem State.memWrite_pc (a : Word) (v : Byte) : (s.memWrite a v).pc = s.pc := rfl
@[simp] theorem State.memWrite_stack (a : Word) (v : Byte) : (s.memWrite a v).stack = s.stack := rfl
@[simp] theorem State.memWrite_sp (a : Word) (v : Byte) : (s.memWrite a v).sp = s.sp := rfl
@[simp] theorem State.memWrite_fb (a : Word) (v : Byte) : (s.memWrite a v).fb = s.fb := rfl
@[simp] theorem State.memWrite_delay (a : Word) (v : Byte) : (s.memWrite a v).delay = s.delay := rfl
@[simp] theorem State.memWrite_sound (a : Word) (v : Byte) : (s.memWrite a v).sound = s.sound := rfl
@[simp] theorem State.memWrite_keypad (a : Word) (v : Byte) : (s.memWrite a v).keypad = s.keypad := rfl
@[simp] theorem State.memWrite_status (a : Word) (v : Byte) : (s.memWrite a v).status = s.status := rfl
@[simp] theorem State.memWrite_params (a : Word) (v : Byte) : (s.memWrite a v).params = s.params := rfl
@[simp] theorem State.memWrite_draws (a : Word) (v : Byte) : (s.memWrite a v).draws = s.draws := rfl
@[simp] theorem State.memWrite_reg (a : Word) (v : Byte) (r : Reg) :
    (s.memWrite a v).reg r = s.reg r := rfl
@[simp] theorem State.memWrite_stackEntry (a : Word) (v : Byte) (k : Fin 16) :
    (s.memWrite a v).stackEntry k = s.stackEntry k := rfl
@[simp] theorem State.memWrite_pixel (a : Word) (v : Byte) (y : Fin 32) (x' : Fin 64) :
    (s.memWrite a v).pixel y x' = s.pixel y x' := rfl
@[simp] theorem State.memWrite_draw (a : Word) (v : Byte) :
    (s.memWrite a v).draw = s.draw := rfl

/-! ## writeIndex -/

@[simp] theorem State.writeIndex_V (v : Word) : (s.writeIndex v).V = s.V := rfl
@[simp] theorem State.writeIndex_mem (v : Word) : (s.writeIndex v).mem = s.mem := rfl
@[simp] theorem State.writeIndex_I (v : Word) : (s.writeIndex v).I = v := rfl
@[simp] theorem State.writeIndex_pc (v : Word) : (s.writeIndex v).pc = s.pc := rfl
@[simp] theorem State.writeIndex_stack (v : Word) : (s.writeIndex v).stack = s.stack := rfl
@[simp] theorem State.writeIndex_sp (v : Word) : (s.writeIndex v).sp = s.sp := rfl
@[simp] theorem State.writeIndex_fb (v : Word) : (s.writeIndex v).fb = s.fb := rfl
@[simp] theorem State.writeIndex_delay (v : Word) : (s.writeIndex v).delay = s.delay := rfl
@[simp] theorem State.writeIndex_sound (v : Word) : (s.writeIndex v).sound = s.sound := rfl
@[simp] theorem State.writeIndex_keypad (v : Word) : (s.writeIndex v).keypad = s.keypad := rfl
@[simp] theorem State.writeIndex_status (v : Word) : (s.writeIndex v).status = s.status := rfl
@[simp] theorem State.writeIndex_params (v : Word) : (s.writeIndex v).params = s.params := rfl
@[simp] theorem State.writeIndex_draws (v : Word) : (s.writeIndex v).draws = s.draws := rfl
@[simp] theorem State.writeIndex_reg (v : Word) (r : Reg) :
    (s.writeIndex v).reg r = s.reg r := rfl
@[simp] theorem State.writeIndex_memRead (v : Word) (b : Word) :
    (s.writeIndex v).memRead b = s.memRead b := rfl
@[simp] theorem State.writeIndex_stackEntry (v : Word) (k : Fin 16) :
    (s.writeIndex v).stackEntry k = s.stackEntry k := rfl
@[simp] theorem State.writeIndex_pixel (v : Word) (y : Fin 32) (x' : Fin 64) :
    (s.writeIndex v).pixel y x' = s.pixel y x' := rfl
@[simp] theorem State.writeIndex_draw (v : Word) :
    (s.writeIndex v).draw = s.draw := rfl

/-! ## writePc -/

@[simp] theorem State.writePc_V (a : Word) : (s.writePc a).V = s.V := rfl
@[simp] theorem State.writePc_mem (a : Word) : (s.writePc a).mem = s.mem := rfl
@[simp] theorem State.writePc_I (a : Word) : (s.writePc a).I = s.I := rfl
@[simp] theorem State.writePc_pc (a : Word) : (s.writePc a).pc = maskAddr a := rfl
@[simp] theorem State.writePc_stack (a : Word) : (s.writePc a).stack = s.stack := rfl
@[simp] theorem State.writePc_sp (a : Word) : (s.writePc a).sp = s.sp := rfl
@[simp] theorem State.writePc_fb (a : Word) : (s.writePc a).fb = s.fb := rfl
@[simp] theorem State.writePc_delay (a : Word) : (s.writePc a).delay = s.delay := rfl
@[simp] theorem State.writePc_sound (a : Word) : (s.writePc a).sound = s.sound := rfl
@[simp] theorem State.writePc_keypad (a : Word) : (s.writePc a).keypad = s.keypad := rfl
@[simp] theorem State.writePc_status (a : Word) : (s.writePc a).status = s.status := rfl
@[simp] theorem State.writePc_params (a : Word) : (s.writePc a).params = s.params := rfl
@[simp] theorem State.writePc_draws (a : Word) : (s.writePc a).draws = s.draws := rfl
@[simp] theorem State.writePc_reg (a : Word) (r : Reg) :
    (s.writePc a).reg r = s.reg r := rfl
@[simp] theorem State.writePc_memRead (a : Word) (b : Word) :
    (s.writePc a).memRead b = s.memRead b := rfl
@[simp] theorem State.writePc_stackEntry (a : Word) (k : Fin 16) :
    (s.writePc a).stackEntry k = s.stackEntry k := rfl
@[simp] theorem State.writePc_pixel (a : Word) (y : Fin 32) (x' : Fin 64) :
    (s.writePc a).pixel y x' = s.pixel y x' := rfl
@[simp] theorem State.writePc_draw (a : Word) :
    (s.writePc a).draw = s.draw := rfl

/-! ## advance -/

@[simp] theorem State.advance_V : (s.advance).V = s.V := rfl
@[simp] theorem State.advance_mem : (s.advance).mem = s.mem := rfl
@[simp] theorem State.advance_I : (s.advance).I = s.I := rfl
@[simp] theorem State.advance_pc : (s.advance).pc = maskAddr (s.pc + 2) := rfl
@[simp] theorem State.advance_stack : (s.advance).stack = s.stack := rfl
@[simp] theorem State.advance_sp : (s.advance).sp = s.sp := rfl
@[simp] theorem State.advance_fb : (s.advance).fb = s.fb := rfl
@[simp] theorem State.advance_delay : (s.advance).delay = s.delay := rfl
@[simp] theorem State.advance_sound : (s.advance).sound = s.sound := rfl
@[simp] theorem State.advance_keypad : (s.advance).keypad = s.keypad := rfl
@[simp] theorem State.advance_status : (s.advance).status = s.status := rfl
@[simp] theorem State.advance_params : (s.advance).params = s.params := rfl
@[simp] theorem State.advance_draws : (s.advance).draws = s.draws := rfl
@[simp] theorem State.advance_reg  (r : Reg) :
    (s.advance).reg r = s.reg r := rfl
@[simp] theorem State.advance_memRead  (b : Word) :
    (s.advance).memRead b = s.memRead b := rfl
@[simp] theorem State.advance_stackEntry  (k : Fin 16) :
    (s.advance).stackEntry k = s.stackEntry k := rfl
@[simp] theorem State.advance_pixel  (y : Fin 32) (x' : Fin 64) :
    (s.advance).pixel y x' = s.pixel y x' := rfl
@[simp] theorem State.advance_draw  :
    (s.advance).draw = s.draw := rfl

/-! ## writeFb -/

@[simp] theorem State.writeFb_V (g : Framebuffer) : (s.writeFb g).V = s.V := rfl
@[simp] theorem State.writeFb_mem (g : Framebuffer) : (s.writeFb g).mem = s.mem := rfl
@[simp] theorem State.writeFb_I (g : Framebuffer) : (s.writeFb g).I = s.I := rfl
@[simp] theorem State.writeFb_pc (g : Framebuffer) : (s.writeFb g).pc = s.pc := rfl
@[simp] theorem State.writeFb_stack (g : Framebuffer) : (s.writeFb g).stack = s.stack := rfl
@[simp] theorem State.writeFb_sp (g : Framebuffer) : (s.writeFb g).sp = s.sp := rfl
@[simp] theorem State.writeFb_fb (g : Framebuffer) : (s.writeFb g).fb = g := rfl
@[simp] theorem State.writeFb_delay (g : Framebuffer) : (s.writeFb g).delay = s.delay := rfl
@[simp] theorem State.writeFb_sound (g : Framebuffer) : (s.writeFb g).sound = s.sound := rfl
@[simp] theorem State.writeFb_keypad (g : Framebuffer) : (s.writeFb g).keypad = s.keypad := rfl
@[simp] theorem State.writeFb_status (g : Framebuffer) : (s.writeFb g).status = s.status := rfl
@[simp] theorem State.writeFb_params (g : Framebuffer) : (s.writeFb g).params = s.params := rfl
@[simp] theorem State.writeFb_draws (g : Framebuffer) : (s.writeFb g).draws = s.draws := rfl
@[simp] theorem State.writeFb_reg (g : Framebuffer) (r : Reg) :
    (s.writeFb g).reg r = s.reg r := rfl
@[simp] theorem State.writeFb_memRead (g : Framebuffer) (b : Word) :
    (s.writeFb g).memRead b = s.memRead b := rfl
@[simp] theorem State.writeFb_stackEntry (g : Framebuffer) (k : Fin 16) :
    (s.writeFb g).stackEntry k = s.stackEntry k := rfl
@[simp] theorem State.writeFb_draw (g : Framebuffer) :
    (s.writeFb g).draw = s.draw := rfl

/-! ## consumeDraw -/

@[simp] theorem State.consumeDraw_V : (s.consumeDraw).V = s.V := rfl
@[simp] theorem State.consumeDraw_mem : (s.consumeDraw).mem = s.mem := rfl
@[simp] theorem State.consumeDraw_I : (s.consumeDraw).I = s.I := rfl
@[simp] theorem State.consumeDraw_pc : (s.consumeDraw).pc = s.pc := rfl
@[simp] theorem State.consumeDraw_stack : (s.consumeDraw).stack = s.stack := rfl
@[simp] theorem State.consumeDraw_sp : (s.consumeDraw).sp = s.sp := rfl
@[simp] theorem State.consumeDraw_fb : (s.consumeDraw).fb = s.fb := rfl
@[simp] theorem State.consumeDraw_delay : (s.consumeDraw).delay = s.delay := rfl
@[simp] theorem State.consumeDraw_sound : (s.consumeDraw).sound = s.sound := rfl
@[simp] theorem State.consumeDraw_keypad : (s.consumeDraw).keypad = s.keypad := rfl
@[simp] theorem State.consumeDraw_status : (s.consumeDraw).status = s.status := rfl
@[simp] theorem State.consumeDraw_params : (s.consumeDraw).params = s.params := rfl
@[simp] theorem State.consumeDraw_draws : (s.consumeDraw).draws = s.draws + 1 := rfl
@[simp] theorem State.consumeDraw_reg  (r : Reg) :
    (s.consumeDraw).reg r = s.reg r := rfl
@[simp] theorem State.consumeDraw_memRead  (b : Word) :
    (s.consumeDraw).memRead b = s.memRead b := rfl
@[simp] theorem State.consumeDraw_stackEntry  (k : Fin 16) :
    (s.consumeDraw).stackEntry k = s.stackEntry k := rfl
@[simp] theorem State.consumeDraw_pixel  (y : Fin 32) (x' : Fin 64) :
    (s.consumeDraw).pixel y x' = s.pixel y x' := rfl

/-! ## writeStatus -/

@[simp] theorem State.writeStatus_V (st : Status) : (s.writeStatus st).V = s.V := rfl
@[simp] theorem State.writeStatus_mem (st : Status) : (s.writeStatus st).mem = s.mem := rfl
@[simp] theorem State.writeStatus_I (st : Status) : (s.writeStatus st).I = s.I := rfl
@[simp] theorem State.writeStatus_pc (st : Status) : (s.writeStatus st).pc = s.pc := rfl
@[simp] theorem State.writeStatus_stack (st : Status) : (s.writeStatus st).stack = s.stack := rfl
@[simp] theorem State.writeStatus_sp (st : Status) : (s.writeStatus st).sp = s.sp := rfl
@[simp] theorem State.writeStatus_fb (st : Status) : (s.writeStatus st).fb = s.fb := rfl
@[simp] theorem State.writeStatus_delay (st : Status) : (s.writeStatus st).delay = s.delay := rfl
@[simp] theorem State.writeStatus_sound (st : Status) : (s.writeStatus st).sound = s.sound := rfl
@[simp] theorem State.writeStatus_keypad (st : Status) : (s.writeStatus st).keypad = s.keypad := rfl
@[simp] theorem State.writeStatus_status (st : Status) : (s.writeStatus st).status = st := rfl
@[simp] theorem State.writeStatus_params (st : Status) : (s.writeStatus st).params = s.params := rfl
@[simp] theorem State.writeStatus_draws (st : Status) : (s.writeStatus st).draws = s.draws := rfl
@[simp] theorem State.writeStatus_reg (st : Status) (r : Reg) :
    (s.writeStatus st).reg r = s.reg r := rfl
@[simp] theorem State.writeStatus_memRead (st : Status) (b : Word) :
    (s.writeStatus st).memRead b = s.memRead b := rfl
@[simp] theorem State.writeStatus_stackEntry (st : Status) (k : Fin 16) :
    (s.writeStatus st).stackEntry k = s.stackEntry k := rfl
@[simp] theorem State.writeStatus_pixel (st : Status) (y : Fin 32) (x' : Fin 64) :
    (s.writeStatus st).pixel y x' = s.pixel y x' := rfl
@[simp] theorem State.writeStatus_draw (st : Status) :
    (s.writeStatus st).draw = s.draw := rfl

/-! ## Updates with a case inside: skipIf and writeResultFlag -/

@[simp] theorem State.skipIf_V (c : Bool) : (s.skipIf c).V = s.V := by cases c <;> rfl
@[simp] theorem State.skipIf_mem (c : Bool) : (s.skipIf c).mem = s.mem := by cases c <;> rfl
@[simp] theorem State.skipIf_I (c : Bool) : (s.skipIf c).I = s.I := by cases c <;> rfl
@[simp] theorem State.skipIf_stack (c : Bool) : (s.skipIf c).stack = s.stack := by cases c <;> rfl
@[simp] theorem State.skipIf_sp (c : Bool) : (s.skipIf c).sp = s.sp := by cases c <;> rfl
@[simp] theorem State.skipIf_fb (c : Bool) : (s.skipIf c).fb = s.fb := by cases c <;> rfl
@[simp] theorem State.skipIf_delay (c : Bool) : (s.skipIf c).delay = s.delay := by cases c <;> rfl
@[simp] theorem State.skipIf_sound (c : Bool) : (s.skipIf c).sound = s.sound := by cases c <;> rfl
@[simp] theorem State.skipIf_keypad (c : Bool) : (s.skipIf c).keypad = s.keypad := by cases c <;> rfl
@[simp] theorem State.skipIf_status (c : Bool) : (s.skipIf c).status = s.status := by cases c <;> rfl
@[simp] theorem State.skipIf_params (c : Bool) : (s.skipIf c).params = s.params := by cases c <;> rfl
@[simp] theorem State.skipIf_draws (c : Bool) : (s.skipIf c).draws = s.draws := by cases c <;> rfl
@[simp] theorem State.skipIf_reg (c : Bool) (r : Reg) : (s.skipIf c).reg r = s.reg r := by cases c <;> rfl
@[simp] theorem State.skipIf_memRead (c : Bool) (b : Word) : (s.skipIf c).memRead b = s.memRead b := by cases c <;> rfl
@[simp] theorem State.skipIf_stackEntry (c : Bool) (k : Fin 16) : (s.skipIf c).stackEntry k = s.stackEntry k := by cases c <;> rfl
@[simp] theorem State.skipIf_pixel (c : Bool) (y : Fin 32) (x' : Fin 64) : (s.skipIf c).pixel y x' = s.pixel y x' := by cases c <;> rfl
@[simp] theorem State.skipIf_draw (c : Bool) : (s.skipIf c).draw  = s.draw := by cases c <;> rfl

theorem State.skipIf_pc (c : Bool) : (s.skipIf c).pc = if c then maskAddr (s.pc + 2) else s.pc := by cases c <;> rfl

@[simp] theorem State.writeResultFlag_mem (x : Reg) (a b : Byte) :
    (s.writeResultFlag x a b).mem = s.mem := by unfold State.writeResultFlag; split <;> rfl
@[simp] theorem State.writeResultFlag_I (x : Reg) (a b : Byte) :
    (s.writeResultFlag x a b).I = s.I := by unfold State.writeResultFlag; split <;> rfl
@[simp] theorem State.writeResultFlag_pc (x : Reg) (a b : Byte) :
    (s.writeResultFlag x a b).pc = s.pc := by unfold State.writeResultFlag; split <;> rfl
@[simp] theorem State.writeResultFlag_stack (x : Reg) (a b : Byte) :
    (s.writeResultFlag x a b).stack = s.stack := by unfold State.writeResultFlag; split <;> rfl
@[simp] theorem State.writeResultFlag_sp (x : Reg) (a b : Byte) :
    (s.writeResultFlag x a b).sp = s.sp := by unfold State.writeResultFlag; split <;> rfl
@[simp] theorem State.writeResultFlag_fb (x : Reg) (a b : Byte) :
    (s.writeResultFlag x a b).fb = s.fb := by unfold State.writeResultFlag; split <;> rfl
@[simp] theorem State.writeResultFlag_delay (x : Reg) (a b : Byte) :
    (s.writeResultFlag x a b).delay = s.delay := by unfold State.writeResultFlag; split <;> rfl
@[simp] theorem State.writeResultFlag_sound (x : Reg) (a b : Byte) :
    (s.writeResultFlag x a b).sound = s.sound := by unfold State.writeResultFlag; split <;> rfl
@[simp] theorem State.writeResultFlag_keypad (x : Reg) (a b : Byte) :
    (s.writeResultFlag x a b).keypad = s.keypad := by unfold State.writeResultFlag; split <;> rfl
@[simp] theorem State.writeResultFlag_status (x : Reg) (a b : Byte) :
    (s.writeResultFlag x a b).status = s.status := by unfold State.writeResultFlag; split <;> rfl
@[simp] theorem State.writeResultFlag_params (x : Reg) (a b : Byte) :
    (s.writeResultFlag x a b).params = s.params := by unfold State.writeResultFlag; split <;> rfl
@[simp] theorem State.writeResultFlag_draws (x : Reg) (a b : Byte) :
    (s.writeResultFlag x a b).draws = s.draws := by unfold State.writeResultFlag; split <;> rfl
@[simp] theorem State.writeResultFlag_memRead (x : Reg) (a b : Byte) (c : Word) :
    (s.writeResultFlag x a b).memRead c = s.memRead c := by unfold State.writeResultFlag; split <;> rfl
@[simp] theorem State.writeResultFlag_stackEntry (x : Reg) (a b : Byte) (k : Fin 16) :
    (s.writeResultFlag x a b).stackEntry k = s.stackEntry k := by unfold State.writeResultFlag; split <;> rfl
@[simp] theorem State.writeResultFlag_pixel (x : Reg) (a b : Byte) (y : Fin 32) (x' : Fin 64) :
    (s.writeResultFlag x a b).pixel y x' = s.pixel y x' := by unfold State.writeResultFlag; split <;> rfl
@[simp] theorem State.writeResultFlag_draw (x : Reg) (a b : Byte) :
    (s.writeResultFlag x a b).draw  = s.draw := by unfold State.writeResultFlag; split <;> rfl

end Sys2Proof.Machine
end

