-- ==== Sys2Proof/Laws/Memory.lean ====
section
/-! SUPPORT. The laws of the byte memory: every operation keeps the canonical form, a read after a write at the same
place gives the value written, and a write leaves every other place alone. -/

namespace Sys2Proof.Machine

theorem Memory.wfFrom_mono {lo lo' : Nat} (h : lo' ≤ lo) : ∀ {m : Memory}, Memory.wfFrom lo m = true → Memory.wfFrom lo' m = true
  | [], _ => rfl
  | (a, v) :: m, hm => by
    simp only [Memory.wfFrom, Bool.and_eq_true, decide_eq_true_eq] at hm ⊢
    exact ⟨⟨⟨by omega, hm.1.1.2⟩, hm.1.2⟩, hm.2⟩

/-- Below the first address of a canonical memory nothing is listed. -/
theorem Memory.lookup_eq_none {a : Nat} : ∀ {m : Memory} {lo : Nat}, a < lo → Memory.wfFrom lo m = true → Memory.lookup a m = none
  | [], _, _, _ => rfl
  | (b, w) :: m, lo, ha, hm => by
    simp only [Memory.wfFrom, Bool.and_eq_true, decide_eq_true_eq] at hm
    have hab : a ≠ b := by omega
    simp only [Memory.lookup, hab, if_false]
    exact Memory.lookup_eq_none (by omega) hm.2

theorem Memory.wfFrom_insert {a : Nat} {v : Byte} (ha : a < memorySize) (hv : v ≠ Memory.initial a) :
    ∀ {m : Memory} {lo : Nat}, lo ≤ a → Memory.wfFrom lo m = true → Memory.wfFrom lo (Memory.insert a v m) = true
  | [], _, hlo, _ => by simp [Memory.insert, Memory.wfFrom, hlo, ha, hv]
  | (b, w) :: m, lo, hlo, hm => by
    simp only [Memory.wfFrom, Bool.and_eq_true, decide_eq_true_eq] at hm
    obtain ⟨⟨⟨hb, hb'⟩, hw⟩, hm⟩ := hm
    unfold Memory.insert
    split
    · simp only [Memory.wfFrom, Bool.and_eq_true, decide_eq_true_eq]
      exact ⟨⟨⟨hlo, ha⟩, hv⟩, ⟨⟨by omega, hb'⟩, hw⟩, hm⟩
    · split
      · subst b
        simp only [Memory.wfFrom, Bool.and_eq_true, decide_eq_true_eq]
        exact ⟨⟨⟨hlo, ha⟩, hv⟩, hm⟩
      · simp only [Memory.wfFrom, Bool.and_eq_true, decide_eq_true_eq]
        exact ⟨⟨⟨hb, hb'⟩, hw⟩, Memory.wfFrom_insert ha hv (by omega) hm⟩

theorem Memory.wfFrom_erase {a : Nat} : ∀ {m : Memory} {lo : Nat}, Memory.wfFrom lo m = true → Memory.wfFrom lo (Memory.erase a m) = true
  | [], _, _ => rfl
  | (b, w) :: m, lo, hm => by
    simp only [Memory.wfFrom, Bool.and_eq_true, decide_eq_true_eq] at hm
    obtain ⟨⟨⟨hb, hb'⟩, hw⟩, hm⟩ := hm
    unfold Memory.erase
    split
    · exact Memory.wfFrom_mono (by omega) hm
    · simp only [Memory.wfFrom, Bool.and_eq_true, decide_eq_true_eq]
      exact ⟨⟨⟨hb, hb'⟩, hw⟩, Memory.wfFrom_erase hm⟩

/-- A write keeps the canonical form. -/
theorem Memory.wf_write {m : Memory} {a : Nat} {v : Byte} (ha : a < memorySize) (h : Memory.wf m = true) :
    Memory.wf (Memory.write m a v) = true := by
  unfold Memory.write
  split
  · exact Memory.wfFrom_erase h
  · exact Memory.wfFrom_insert ha ‹_› (Nat.zero_le a) h

theorem Memory.lookup_insert {a b : Nat} {v : Byte} :
    ∀ {m : Memory}, Memory.lookup b (Memory.insert a v m) = if b = a then some v else Memory.lookup b m
  | [] => by by_cases h : b = a <;> simp [Memory.insert, Memory.lookup, h]
  | (c, w) :: m => by
    unfold Memory.insert
    split
    · by_cases h : b = a <;> simp [Memory.lookup, h]
    · split
      · subst c
        by_cases h : b = a <;> simp [Memory.lookup, h]
      · have ih := Memory.lookup_insert (a := a) (b := b) (v := v) (m := m)
        by_cases hc : b = c
        · subst c
          have hne : b ≠ a := fun h => by simp [h] at *
          simp [Memory.lookup, hne]
        · simp [Memory.lookup, hc, ih]

theorem Memory.lookup_erase {a b : Nat} :
    ∀ {m : Memory} {lo : Nat}, Memory.wfFrom lo m = true →
      Memory.lookup b (Memory.erase a m) = if b = a then none else Memory.lookup b m
  | [], _, _ => by simp [Memory.erase, Memory.lookup]
  | (c, w) :: m, lo, hm => by
    simp only [Memory.wfFrom, Bool.and_eq_true, decide_eq_true_eq] at hm
    unfold Memory.erase
    split
    · subst c
      by_cases h : b = a
      · subst b; simpa using Memory.lookup_eq_none (Nat.lt_succ_self a) hm.2
      · simp [Memory.lookup, h]
    · have ih := Memory.lookup_erase (a := a) (b := b) hm.2
      by_cases hc : b = c
      · subst c
        have hne : b ≠ a := fun h => by simp [h] at *
        simp [Memory.lookup, hne]
      · simp [Memory.lookup, hc, ih]

/-- A byte reads as the value last written to its address, and every other byte as before. -/
theorem Memory.read_write {m : Memory} {a b : Nat} {v : Byte} (h : Memory.wf m = true) :
    Memory.read (Memory.write m a v) b = if b = a then v else Memory.read m b := by
  unfold Memory.write Memory.read
  split
  · rw [Memory.lookup_erase h]
    by_cases hb : b = a <;> simp_all
  · rw [Memory.lookup_insert]
    by_cases hb : b = a <;> simp [hb]

/-- A masked address lies in memory (R51). -/
theorem maskAddr_lt (a : Word) : (maskAddr a).toNat < memorySize := by
  have h : (maskAddr a).toNat = a.toNat % 4096 := by
    simp only [maskAddr, BitVec.toNat_and, BitVec.toNat_ofNat]
    exact Nat.and_two_pow_sub_one_eq_mod a.toNat 12
  rw [h]
  exact Nat.mod_lt _ (by decide)

/-- Masking to 12 bits is the remainder mod 0x1000 (R24, R51). -/
theorem maskAddr_toNat (a : Word) : (maskAddr a).toNat = a.toNat % 4096 := by
  simp only [maskAddr, BitVec.toNat_and, BitVec.toNat_ofNat]
  exact Nat.and_two_pow_sub_one_eq_mod a.toNat 12

theorem State.memWrite_wf {s : State} (a : Word) (v : Byte) (h : Memory.wf s.mem = true) :
    Memory.wf (s.memWrite a v).mem = true := Memory.wf_write (maskAddr_lt a) h

theorem State.memRead_memWrite {s : State} (a b : Word) (v : Byte) (h : Memory.wf s.mem = true) :
    (s.memWrite a v).memRead b = if maskAddr b = maskAddr a then v else s.memRead b := by
  unfold State.memRead
  rw [State.memWrite_mem, Memory.read_write h]
  simp only [BitVec.toNat_inj]

/-- Loading bytes keeps the canonical form (R280, R281). -/
theorem State.loadBytes_wf : ∀ (bs : List Byte) (base : Nat) {s : State}, Memory.wf s.mem = true →
    Memory.wf (State.loadBytes base bs s).mem = true
  | [], _, _, h => h
  | b :: bs, base, _, h => State.loadBytes_wf bs (base + 1) (State.memWrite_wf _ b h)

/-- A loader changes memory alone: the register file, for one, is kept. -/
theorem State.loadBytes_eq : ∀ (bs : List Byte) (base : Nat) (s : State),
    State.loadBytes base bs s = { s with mem := (State.loadBytes base bs s).mem }
  | [], _, _ => rfl
  | b :: bs, base, s => by
    rw [State.loadBytes, State.loadBytes_eq bs (base + 1)]
    rfl

end Sys2Proof.Machine
end

