-- ==== Sys2Proof/Laws/Ops.lean ====
section
/-! SUPPORT. One lemma per shared operation that says everything it can do; later proofs cite these instead of unfolding
the operation. -/

namespace Sys2Proof.Machine

/-! ## Registers -/

/-- A written register reads back, every other register is kept (R21). -/
theorem State.reg_writeReg (s : State) (x r : Reg) (v : Byte) :
    (s.writeReg x v).reg r = if r = x then v else s.reg r := by
  simp [State.reg, State.writeReg, Vector.get_eq_getElem, Vector.getElem_set, Fin.ext_iff, eq_comm]

@[simp] theorem State.reg_writeReg_same (s : State) (x : Reg) (v : Byte) : (s.writeReg x v).reg x = v := by
  simp [State.reg_writeReg]

theorem State.reg_writeReg_ne (s : State) {x r : Reg} (v : Byte) (h : r ≠ x) : (s.writeReg x v).reg r = s.reg r := by
  simp [State.reg_writeReg, h]

/-- The registers after a result and a flag are written (R168): Vx has the result and VF the flag, and where Vx is VF the
parameter decides. -/
theorem State.reg_writeResultFlag (s : State) (x r : Reg) (a b : Byte) :
    (s.writeResultFlag x a b).reg r =
      if r = flagReg ∧ r = x then (if s.params.vfOrder = .flagLast then b else a)
      else if r = flagReg then b else if r = x then a else s.reg r := by
  unfold State.writeResultFlag
  cases s.params.vfOrder <;> by_cases h : r = flagReg <;> by_cases h' : r = x <;>
    simp_all [State.reg_writeReg]

/-! ## Program counter -/

theorem State.writePc_lt (s : State) (a : Word) : (s.writePc a).pc.toNat < 4096 := maskAddr_lt a

theorem State.advance_lt (s : State) : s.advance.pc.toNat < 4096 := maskAddr_lt _

theorem zextAddr_lt (nnn : Addr) : (zextAddr nnn).toNat < 4096 := by
  have := nnn.isLt
  simp only [zextAddr, BitVec.toNat_setWidth]
  omega

/-- An address immediate is its own reduction (R83). -/
@[simp] theorem maskAddr_zextAddr (nnn : Addr) : maskAddr (zextAddr nnn) = zextAddr nnn := by
  apply BitVec.eq_of_toNat_eq
  rw [maskAddr_toNat]
  exact Nat.mod_eq_of_lt (zextAddr_lt nnn)

/-! ## Return stack -/

/-- A push needs room, stores the address at the old `sp`, and adds one to `sp` (R133). -/
theorem State.pushReturn_eq_some {s t : State} {a : Word} :
    s.pushReturn a = some t ↔
      ∃ h : s.sp.val < 16, t = { s with stack := s.stack.set s.sp.val a h, sp := ⟨s.sp.val + 1, Nat.succ_lt_succ h⟩ } := by
  unfold State.pushReturn
  split
  · simp_all [eq_comm]
  · simp_all

/-- A push fails exactly on a full stack (R240). -/
theorem State.pushReturn_eq_none {s : State} {a : Word} : s.pushReturn a = none ↔ s.sp.val = 16 := by
  have := s.sp.isLt
  unfold State.pushReturn
  split <;> simp <;> omega

/-- A pop needs an entry, answers the one below `sp`, and takes one from `sp`; the entry keeps its value (R131). -/
theorem State.popReturn_eq_some {s t : State} {a : Word} :
    s.popReturn = some (a, t) ↔
      ∃ h : 0 < s.sp.val, a = s.stackEntry ⟨s.sp.val - 1, by have := s.sp.isLt; omega⟩ ∧
        t = { s with sp := ⟨s.sp.val - 1, by have := s.sp.isLt; omega⟩ } := by
  unfold State.popReturn
  split
  · simp_all [eq_comm, State.stackEntry]
  · simp_all

/-- A pop fails exactly on an empty stack (R241). -/
theorem State.popReturn_eq_none {s : State} : s.popReturn = none ↔ s.sp.val = 0 := by
  unfold State.popReturn
  split <;> simp <;> omega

/-! ## Framebuffer -/

/-- A toggle inverts its pixel and keeps every other (R214). -/
theorem Framebuffer.pixel_toggle (fb : Framebuffer) (y y' : Fin 32) (x x' : Fin 64) :
    (fb.toggle y x).pixel y' x' = if y' = y ∧ x' = x then !fb.pixel y x else fb.pixel y' x' := by
  unfold Framebuffer.toggle Framebuffer.pixel
  by_cases hy : y' = y
  · subst y'
    by_cases hx : x' = x
    · subst x'; simp [Vector.get_eq_getElem]
    · have hx' : ¬ x.val = x'.val := fun h => hx (Fin.ext h.symm)
      simp [Vector.get_eq_getElem, hx, hx']
  · have hy' : ¬ y.val = y'.val := fun h => hy (Fin.ext h.symm)
    simp [Vector.get_eq_getElem, hy, hy']

@[simp] theorem Framebuffer.pixel_dark (y : Fin 32) (x : Fin 64) : Framebuffer.dark.pixel y x = false := by
  simp [Framebuffer.dark, Framebuffer.pixel, Vector.get_eq_getElem]

/-- Grids with the same pixels are the same grid. -/
theorem Framebuffer.ext_pixel {f g : Framebuffer} (h : ∀ y x, f.pixel y x = g.pixel y x) : f = g := by
  refine Vector.ext fun i hi => Vector.ext fun j hj => ?_
  simpa [Framebuffer.pixel, Vector.get_eq_getElem] using h ⟨i, hi⟩ ⟨j, hj⟩

/-- One column of a sprite row either plots its pixel or does nothing (R212). -/
theorem drawColumn_eq (b x0 : Byte) (py : Fin 32) (d : Drawing) (c : Nat) :
    drawColumn b x0 py d c = if spriteBit b c then d.plot py (pixelColumn x0 c) else d := rfl

/-! ## Faults -/

/-- Raising a fault gives that fault, carrying the state with only its status changed (R244). -/
theorem raiseFault_eq (r : StackFault) (s : State) :
    raiseFault r s = .fault (match r with
      | .stackOverflow => .stackOverflow (s.writeStatus (.faulted r))
      | .stackUnderflow => .stackUnderflow (s.writeStatus (.faulted r))) := by
  cases r <;> rfl

theorem raiseFault_ne_next (r : StackFault) (s t : State) : raiseFault r s ≠ .next t := by
  cases r <;> simp [raiseFault]

/-! ## The cycle -/

/-- What a cycle that answers a next state has done (R113). -/
theorem step_next_cases {s t : State} (h : step s = .next t) :
    s.status = .running ∧
      ((∃ i, decodeWord s.params.zeroDecode s.fetchWord = .ok i ∧ exec i s.advance = .next t) ∨
       (∃ why, decodeWord s.params.zeroDecode s.fetchWord = .error why ∧ s.params.unlisted = .nop ∧ t = s.advance)) := by
  unfold step at h
  split at h
  · rename_i hs
    refine ⟨hs, ?_⟩
    unfold runWord at h
    simp only [State.advance_params] at h
    split at h
    · exact .inl ⟨_, ‹_›, h⟩
    · refine .inr ⟨_, ‹_›, ?_⟩
      unfold execUnlisted at h
      simp only [State.advance_params] at h
      split at h
      · exact ⟨‹_›, by simpa using h.symm⟩
      · simp at h
  · simp at h

end Sys2Proof.Machine
end

