-- ==== Sys2Proof/Laws/Runs.lean ====
section
/-! SUPPORT. Runs of cycles: the model's own `cycles` is the host's run of the core, and an invariant of `step` is an
invariant of runs. -/

namespace Sys2Proof.Machine

theorem cycles_eq_run : ∀ (k : Nat) (s : State), cycles k s = Host.Core.run Sys2Proof.core k s
  | 0, _ => rfl
  | k + 1, s => by
    cases h : step s with
    | next t =>
      have h' : Sys2Proof.core.step s = .next t := h
      simp only [cycles, Host.Core.run, h, h']
      exact cycles_eq_run k t
    | fault r =>
      have h' : Sys2Proof.core.step s = .fault r := h
      simp only [cycles, Host.Core.run, h, h']
      rfl
    | refused r =>
      have h' : Sys2Proof.core.step s = .refused r := h
      simp only [cycles, Host.Core.run, h, h']
      rfl

/-- What a step keeps, every run keeps. -/
theorem cycles_keeps {P : State → Prop} (hstep : ∀ s t, P s → step s = .next t → P t) :
    ∀ (k : Nat) {s t : State}, P s → cycles k s = .next t → P t
  | 0, s, t, hs, h => by
    have : s = t := by simpa [cycles] using h
    exact this ▸ hs
  | k + 1, s, t, hs, h => by
    unfold cycles at h
    split at h
    · exact cycles_keeps hstep k (hstep _ _ hs ‹_›) h
    · simp at h
    · simp at h

/-- One register write is a change of that register alone. -/
theorem ChangesOnly.writeReg (s : State) (x : Reg) (v : Byte) : ChangesOnly { regs := [x] } s (s.writeReg x v) where
  regs r hr := s.reg_writeReg_ne v (by simpa using hr)
  pc _ := rfl
  index _ := rfl
  sp _ := rfl
  stack _ _ := rfl
  fb _ _ _ := rfl
  draws _ := rfl
  memory _ := rfl
  delay := rfl
  sound := rfl
  keypad := rfl
  status := rfl
  params := rfl

/-- A write of a result and a flag changes Vx and VF alone (R168). -/
theorem ChangesOnly.writeResultFlag (s : State) (x : Reg) (a b : Byte) :
    ChangesOnly { regs := [x, flagReg] } s (s.writeResultFlag x a b) where
  regs r hr := by
    have h : r ≠ x ∧ r ≠ flagReg := by simpa using hr
    simp [State.reg_writeResultFlag, h.1, h.2]
  pc _ := by simp
  index _ := by simp
  sp _ := by simp
  stack _ _ := by simp
  fb _ _ _ := by simp
  draws _ := by simp
  memory _ := by simp
  delay := by simp
  sound := by simp
  keypad := by simp
  status := by simp
  params := by simp

/-- A write of `pc` changes nothing else. -/
theorem ChangesOnly.writePc (s : State) (a : Word) : ChangesOnly { pc := true } s (s.writePc a) where
  regs _ _ := rfl
  pc h := absurd h (by simp)
  index _ := rfl
  sp _ := rfl
  stack _ _ := rfl
  fb _ _ _ := rfl
  draws _ := rfl
  memory _ := rfl
  delay := rfl
  sound := rfl
  keypad := rfl
  status := rfl
  params := rfl

/-- A skip changes `pc` alone (R130). -/
theorem ChangesOnly.skipIf (s : State) (c : Bool) : ChangesOnly { pc := true } s (s.skipIf c) where
  regs _ _ := by simp
  pc h := absurd h (by simp)
  index _ := by simp
  sp _ := by simp
  stack _ _ := by simp
  fb _ _ _ := by simp
  draws _ := by simp
  memory _ := by simp
  delay := by simp
  sound := by simp
  keypad := by simp
  status := by simp
  params := by simp

end Sys2Proof.Machine
end

