-- ==== Sys2Proof/Tests/Slice0.lean ====
section
/-! SUPPORT. The model's own tests. Expected values come from the spec: the encodings of 30_encoding.md R85, the vectors of
95_test_vectors.md sections 1 and 2, and the examples of the rules. The last section shows, for every statement that has
hypotheses, a concrete input that meets them. -/

namespace Sys2Proof.Tests

open Sys2Proof Sys2Proof.Machine

/-! ## Small states -/

/-- The outcome is a next state with the property. -/
def nextHolds (r : Result) (p : State → Bool) : Bool :=
  match r with
  | .next t => p t
  | _ => false

/-- The outcome is a fault whose final state has the property. -/
def faultHolds (r : Result) (p : Fault → Bool) : Bool :=
  match r with
  | .fault f => p f
  | _ => false

/-- The reset state with a word to fetch and some registers set. -/
def withRegs (w : Nat) (rs : List (Reg × Byte)) : State :=
  rs.foldl (fun s r => s.writeReg r.1 r.2) (State.reset.withFetchWord 16 w)

/-- A state with another program counter and the word there. -/
def atPc (a : Word) (w : Nat) : State := (State.reset.writePc a).withFetchWord 16 w

/-- Sixteen return addresses pushed, the last one 0x456. -/
def fullStack (w : Nat) : State :=
  { State.reset.withFetchWord 16 w with sp := 16, stack := Vector.replicate 16 0x456#16 }

/-- The reset state under other parameters. -/
def withParams (p : Params) (s : State) : State := { s with params := p }

/-! ## WellFormed smoke test: the one check, a height above 15 -/

theorem test_wf_refuses_height_16 : (Instr.drw 0 0 16).wf = false := by decide

theorem test_wf_allows_height_15 : (Instr.drw 0 0 15).wf = true := by decide

/-! ## Decoding: words written out from R85, one for each constructor -/

theorem test_decode_cls : decodeTableWord 16 0x00E0 = some .cls := by decide
theorem test_decode_cls_low_byte : decodeTableWord 16 0x03E0 = some .cls := by decide
theorem test_decode_ret : decodeTableWord 16 0x00EE = some .ret := by decide
theorem test_decode_jp : decodeTableWord 16 0x1234 = some (.jp 0x234) := by decide
theorem test_decode_call : decodeTableWord 16 0x2ABC = some (.call 0xABC) := by decide
theorem test_decode_seImm : decodeTableWord 16 0x3310 = some (.seImm 3 0x10) := by decide
theorem test_decode_sneImm : decodeTableWord 16 0x4A21 = some (.sneImm 0xA 0x21) := by decide
theorem test_decode_seReg : decodeTableWord 16 0x512F = some (.seReg 1 2) := by decide
theorem test_decode_ldImm : decodeTableWord 16 0x6A05 = some (.ldImm 0xA 0x05) := by decide
theorem test_decode_addImm : decodeTableWord 16 0x7AFF = some (.addImm 0xA 0xFF) := by decide
theorem test_decode_ldReg : decodeTableWord 16 0x8150 = some (.ldReg 1 5) := by decide
theorem test_decode_orReg : decodeTableWord 16 0x8121 = some (.orReg 1 2) := by decide
theorem test_decode_andReg : decodeTableWord 16 0x8122 = some (.andReg 1 2) := by decide
theorem test_decode_xorReg : decodeTableWord 16 0x8123 = some (.xorReg 1 2) := by decide
theorem test_decode_addReg : decodeTableWord 16 0x8344 = some (.addReg 3 4) := by decide
theorem test_decode_sub : decodeTableWord 16 0x8F15 = some (.sub 0xF 1) := by decide
theorem test_decode_subn : decodeTableWord 16 0x8127 = some (.subn 1 2) := by decide
theorem test_decode_sneReg : decodeTableWord 16 0x9120 = some (.sneReg 1 2) := by decide
theorem test_decode_ldI : decodeTableWord 16 0xA050 = some (.ldI 0x050) := by decide
theorem test_decode_jpV0 : decodeTableWord 16 0xB300 = some (.jpV0 0x300) := by decide
theorem test_decode_rnd : decodeTableWord 16 0xC00F = some (.rnd 0 0x0F) := by decide
theorem test_decode_drw : decodeTableWord 16 0xD125 = some (.drw 1 2 5) := by decide

theorem test_decode_full_word : decodeWord .fullWord 0x03E0#16 = .error .familyZero := by decide

theorem test_reject_by_name :
    decodeBytes .lowByte [0x81, 0x26] = .error (.unlisted .familyEight 0x8126) ∧
    decodeBytes .lowByte [0xE1, 0x9E] = .error (.unlisted .familyE 0xE19E) ∧
    decodeBytes .lowByte [0xF0, 0x0A] = .error (.unlisted .familyF 0xF00A) ∧
    decodeBytes .lowByte [0x00] = .error .truncated := by decide

theorem test_encode_words :
    encode (.ldImm 0xA 0x05) = 0x6A05#16 ∧ encode (.drw 1 2 5) = 0xD125#16 ∧ encode (.subn 1 2) = 0x8127#16 ∧
    encodeBytes (.call 0x300) = [0x23, 0x00] := by decide

/-- R91's notation, against the listings of 95_test_vectors.md section 3. -/
theorem test_asm :
    asmWord .lowByte 0x6A05 = "LD VA, 0x05".toList ∧ asmWord .lowByte 0xB206 = "JP V0, 0x206".toList ∧
    asmWord .lowByte 0xD015 = "DRW V0, V1, 5".toList ∧ asmWord .lowByte 0xF00A = "DW 0xF00A".toList := by decide

/-! ## One step per instruction (95_test_vectors.md sections 1 and 2) -/

theorem test_ldImm : nextHolds (step (withRegs 0x6A05 [])) (fun t => t.reg 0xA == 0x05 && t.pc == 0x202) = true := by decide

theorem test_addImm : nextHolds (step (withRegs 0x7AFF [(0xA, 0x01), (0xF, 0x55)]))
    (fun t => t.reg 0xA == 0x00 && t.reg 0xF == 0x55) = true := by decide

theorem test_ldReg : nextHolds (step (withRegs 0x8150 [(5, 0x33)])) (fun t => t.reg 1 == 0x33 && t.reg 5 == 0x33) = true := by
  decide

theorem test_orReg : nextHolds (step (withRegs 0x8121 [(1, 0x0F), (2, 0xF0), (0xF, 0x01)]))
    (fun t => t.reg 1 == 0xFF && t.reg 0xF == 0x01) = true := by decide

theorem test_andReg : nextHolds (step (withRegs 0x8122 [(1, 0x3C), (2, 0x0F)])) (fun t => t.reg 1 == 0x0C) = true := by decide

theorem test_xorReg : nextHolds (step (withRegs 0x8123 [(1, 0x3C), (2, 0x0F)])) (fun t => t.reg 1 == 0x33) = true := by decide

theorem test_addReg : nextHolds (step (withRegs 0x8344 [(3, 10), (4, 250)]))
    (fun t => t.reg 3 == 4 && t.reg 0xF == 1 && t.reg 4 == 250) = true := by decide

theorem test_addReg_vf_order :
    nextHolds (step (withRegs 0x8F14 [(0xF, 0x10), (1, 0xF5)])) (fun t => t.reg 0xF == 1) = true ∧
    nextHolds (step (withParams { Params.default with vfOrder := .resultLast } (withRegs 0x8F14 [(0xF, 0x10), (1, 0xF5)])))
      (fun t => t.reg 0xF == 0x05) = true := by decide

theorem test_sub : nextHolds (step (withRegs 0x8125 [(1, 0x05), (2, 0x07)]))
    (fun t => t.reg 1 == 0xFE && t.reg 0xF == 0) = true := by decide

theorem test_sub_vf_order :
    nextHolds (step (withRegs 0x8F15 [(0xF, 0x03), (1, 0x05)])) (fun t => t.reg 0xF == 0) = true ∧
    nextHolds (step (withParams { Params.default with vfOrder := .resultLast } (withRegs 0x8F15 [(0xF, 0x03), (1, 0x05)])))
      (fun t => t.reg 0xF == 0xFE) = true := by decide

theorem test_subn : nextHolds (step (withRegs 0x8127 [(1, 0x05), (2, 0x07)]))
    (fun t => t.reg 1 == 0x02 && t.reg 0xF == 1) = true := by decide

theorem test_subn_borrow : nextHolds (step (withRegs 0x8127 [(1, 0x01), (2, 0x00)]))
    (fun t => t.reg 1 == 0xFF && t.reg 0xF == 0) = true := by decide

theorem test_seImm_wraps : nextHolds (step (atPc 0xFFE 0x3000)) (fun t => t.pc == 0x002) = true := by decide

theorem test_sneImm :
    nextHolds (step (withRegs 0x4310 [(3, 0x10)])) (fun t => t.pc == 0x202) = true ∧
    nextHolds (step (withRegs 0x4311 [(3, 0x10)])) (fun t => t.pc == 0x204) = true := by decide

theorem test_seReg_ignores_low_nibble : nextHolds (step (withRegs 0x512F [(1, 7), (2, 7)])) (fun t => t.pc == 0x204) = true := by
  decide

theorem test_sneReg :
    nextHolds (step (withRegs 0x9120 [(1, 6), (2, 0)])) (fun t => t.pc == 0x204) = true ∧
    nextHolds (step (withRegs 0x9110 [(1, 6)])) (fun t => t.pc == 0x202) = true := by decide

theorem test_jp_odd_target : nextHolds (step (withRegs 0x1201 [])) (fun t => t.pc == 0x201) = true := by decide

theorem test_jpV0_wraps : nextHolds (step (withRegs 0xBFFF [(0, 0xFF)])) (fun t => t.pc == 0x0FE) = true := by decide

theorem test_call_at_top : nextHolds (step (atPc 0xFFE 0x2ABC))
    (fun t => t.pc == 0xABC && t.sp == 1 && t.stackEntry 0 == 0x000) = true := by decide

theorem test_call_overflow : faultHolds (step (fullStack 0x2300)) (fun f => match f with
    | .stackOverflow t => t.pc == 0x202 && t.sp == 16 && t.status == .faulted .stackOverflow
    | _ => false) = true := by decide

theorem test_ret_from_full : nextHolds (step (fullStack 0x00EE)) (fun t => t.pc == 0x456 && t.sp == 15) = true := by decide

theorem test_ret_underflow : faultHolds (step (withRegs 0x00EE [])) (fun f => match f with
    | .stackUnderflow t => t.pc == 0x202 && t.sp == 0 && t.status.code == 2
    | _ => false) = true := by decide

theorem test_ldI : nextHolds (step (withRegs 0xAFFF [])) (fun t => t.I == 0xFFF) = true := by decide

/-- Draw 0xAB, word C00F: V0 = 0x0B. -/
theorem test_rnd_of_draw : (State.reset.randomAnd 0xAB 0 0x0F).reg 0 = 0x0B := by decide

/-- Word C000: V0 = 0 for every draw. -/
theorem test_rnd_of_zero : ∀ r : Byte, (State.reset.randomAnd r 3 0x00).reg 3 = 0 := by
  intro r
  simp [State.randomAnd]

theorem test_cls : nextHolds (step (withParams { Params.default with unlisted := .refuse }
      ((withRegs 0x03E0 [(0xF, 9)]).writeFb ((State.reset.fb.toggle 3 7).toggle 31 63))))
    (fun t => !t.pixel 3 7 && !t.pixel 31 63 && t.reg 0xF == 9) = true := by decide

/-- DF11 with I = 0x050, VF = 5, V1 = 0 and pixel (5, 0) on: the row F0 at x = 5 turns it off and (6..8, 0) on; VF = 1. -/
theorem test_drw_collision : nextHolds (step (((withRegs 0xDF11 [(0xF, 5)]).writeIndex 0x050).writeFb (State.reset.fb.toggle 0 5)))
    (fun t => !t.pixel 0 5 && t.pixel 0 6 && t.pixel 0 7 && t.pixel 0 8 && !t.pixel 0 9 && t.reg 0xF == 1) = true := by decide

/-- D011 with I = 0x055 (0x20), V0 = 200, V1 = 35: pixel (10, 3) on, VF = 0. -/
theorem test_drw_wraps_start : nextHolds (step ((withRegs 0xD011 [(0, 200), (1, 35)]).writeIndex 0x055))
    (fun t => t.pixel 3 10 && !t.pixel 3 9 && !t.pixel 3 11 && t.reg 0xF == 0) = true := by decide

/-- D012 with I = 0xFFF, mem[0xFFF] = 80, mem[0x000] = 01: pixels (0, 0) and (7, 1) on. -/
theorem test_drw_wraps_memory : nextHolds
    (step ((((withRegs 0xD012 []).writeIndex 0xFFF).memWrite 0xFFF 0x80).memWrite 0x000 0x01))
    (fun t => t.pixel 0 0 && t.pixel 1 7 && !t.pixel 0 7 && !t.pixel 1 0 && t.reg 0xF == 0) = true := by decide

/-- D010: no row is drawn and VF = 0. -/
theorem test_drw_height_zero : nextHolds (step ((withRegs 0xD010 [(0xF, 7)]).writeIndex 0x050))
    (fun t => !t.pixel 0 0 && t.reg 0xF == 0) = true := by decide

theorem test_unlisted_nop : nextHolds (step (withRegs 0x8126 [(1, 3), (2, 5), (0xF, 7)]))
    (fun t => t.pc == 0x202 && t.reg 1 == 3 && t.reg 2 == 5 && t.reg 0xF == 7) = true := by decide

theorem test_unlisted_refused :
    step (withParams { Params.default with unlisted := .refuse } (withRegs 0xF00A [])) = .refused (.unlisted 0xF00A) := by rfl

theorem test_fetch_across_the_top :
    nextHolds (step (atPc 0xFFF 0x1200)) (fun t => t.pc == 0x200) = true ∧
    (atPc 0xFFF 0x1200).memRead 0x000 = 0x00 ∧ (atPc 0xFFF 0x1200).memRead 0xFFF = 0x12 := by decide

theorem test_memory_write_is_canonical :
    (State.reset.memWrite 0x300 7).mem = [(0x300, 7)] ∧ ((State.reset.memWrite 0x300 7).memWrite 0x300 0).mem = [] ∧
    (State.reset.memWrite 0x050 0xF0).mem = [] ∧ State.reset.memRead 0x09F = 0x80 := by decide

/-- An ill-formed memory is refused by the check. -/
theorem test_memory_wf_refuses :
    Memory.wf [(3, 1), (2, 1)] = false ∧ Memory.wf [(2, 0)] = false ∧ Memory.wf [(4096, 1)] = false := by decide

/-! ## Witnesses: a concrete input for the hypotheses of each statement -/

theorem witness_EncodingRoundTrip : (Instr.drw 0xF 0 15).wf = true := by decide

theorem witness_FamilyZeroDecode : (0x00E0#16).toNat < 0x1000 ∧ (0x0FFF#16).toNat < 0x1000 := by decide

theorem witness_FamilyEightDecode : (0x6#4 = 0x6#4 ∨ 0x8#4 ≤ 0x6#4) ∧ (0xF#4 = 0x6#4 ∨ 0x8#4 ≤ 0xF#4) := by decide

theorem witness_FetchIsBigEndianAndWraps : (atPc 0xFFF 0x1200).pc = 0xFFF#16 := by decide

theorem witness_StepRunsTheDecodedInstruction : (atPc 0xFFF 0x1200).status = .running ∧
    decodeBytes (atPc 0xFFF 0x1200).params.zeroDecode
      [(atPc 0xFFF 0x1200).memRead (atPc 0xFFF 0x1200).pc, (atPc 0xFFF 0x1200).memRead ((atPc 0xFFF 0x1200).pc + 1)] =
    .ok (.jp 0x200, []) := by decide

theorem witness_UnlistedWordIsANop : State.reset.status = .running ∧ State.reset.params.unlisted = .nop ∧
    decodeWord State.reset.params.zeroDecode State.reset.fetchWord = .error .familyZero := by decide

/-- Reset, with unlisted words refused. -/
def refusing : State := withParams { Params.default with unlisted := .refuse } State.reset

theorem witness_UnlistedWordIsRefused : refusing.status = .running ∧ refusing.params.unlisted = .refuse ∧
    decodeWord refusing.params.zeroDecode refusing.fetchWord = .error .familyZero := by decide

theorem witness_FaultedCoreTakesNoCycle :
    (State.reset.writeStatus (.faulted .stackUnderflow)).status = .faulted .stackUnderflow := by decide

/-- Each of the four outcomes occurs. -/
theorem witness_CycleOutcomesAreTheFour : State.reset.status = .running ∧ (∃ t, step State.reset = .next t) ∧
    (∃ t, step (fullStack 0x2300) = .fault (.stackOverflow t)) ∧
    (∃ t, step (withRegs 0x00EE []) = .fault (.stackUnderflow t)) ∧ step refusing = .refused (.unlisted 0) :=
  ⟨rfl, ⟨_, rfl⟩, ⟨_, rfl⟩, ⟨_, rfl⟩, rfl⟩

theorem witness_ReturnPopsTheProgramCounter :
    0 < (fullStack 0).sp.val ∧ (15 : Fin 16).val + 1 = (fullStack 0).sp.val ∧ State.reset.sp.val = 0 := by decide

theorem witness_CallPushesTheFollowingAddress : ({ State.reset with sp := 15 } : State).sp.val < 16 ∧ (fullStack 0).sp.val = 16 := by
  decide

/-- Each completion statement's premise on a next state is met: every instruction gives one from a state with one live
return address. -/
theorem witness_every_instruction_completes (i : Instr) : ∃ t, exec i { State.reset with sp := 1 } = .next t := by
  cases i <;> exact ⟨_, rfl⟩

theorem witness_ResultAndFlagWriteOrder : (0xE : Reg) ≠ 0xF ∧ State.reset.params.vfOrder = .flagLast ∧
    (withParams { Params.default with vfOrder := .resultLast } State.reset).params.vfOrder = .resultLast := by decide

theorem witness_AddRegistersWrapsAndCarries : ((0x0 : Reg) ≠ 0xF ∨ State.reset.params.vfOrder = .flagLast) ∧
    (0xF : Reg) = 0xF ∧ (withParams { Params.default with vfOrder := .resultLast } State.reset).params.vfOrder = .resultLast := by
  decide

theorem witness_SubtractWrapsAndClearsFlagOnBorrow : ((0xF : Reg) ≠ 0xF ∨ State.reset.params.vfOrder = .flagLast) ∧
    (0xE : Reg) ≠ 0xF ∧ (withParams { Params.default with vfOrder := .resultLast } State.reset).params.vfOrder = .resultLast := by
  decide

theorem witness_SubtractReverseWrapsAndClearsFlagOnBorrow : ((0xF : Reg) ≠ 0xF ∨ State.reset.params.vfOrder = .flagLast) ∧
    (0x1 : Reg) ≠ 0xF ∧ (withParams { Params.default with vfOrder := .resultLast } State.reset).params.vfOrder = .resultLast := by
  decide

theorem witness_LoadIndex : (∀ a, Instr.cls ≠ .ldI a) ∧ ∃ t, exec .cls State.reset = .next t := ⟨by simp, _, rfl⟩

/-- A set bit falls on pixel (0, 0) and none on (0, 1) when glyph "1" is not drawn: both clauses of the draw are met. -/
theorem witness_DrawTogglesExactlyTheSprite :
    SpritePixel (State.reset.writeIndex 0x050) 0 1 15 0 0 ∧ ¬ SpritePixel (State.reset.writeIndex 0x050) 0 1 0 0 0 :=
  ⟨⟨0, 0, by decide, by decide, by decide, by decide, by decide⟩, fun ⟨_, _, h, _⟩ => absurd h (Nat.not_lt_zero _)⟩

theorem witness_DoubleDrawRestoresTheScreen : (0x0 : Reg) ≠ 0xF ∧ (0xE : Reg) ≠ 0xF := by decide

/-- A first draw that leaves both coordinates as they were, one of them in VF: a dark screen, VF = 0, no collision. -/
theorem witness_DoubleDrawRestoresTheScreen_flag : ∃ t, exec (.drw 0xF 0 1) (State.reset.writeIndex 0x050) = .next t ∧
    t.reg 0xF = (State.reset.writeIndex 0x050).reg 0xF ∧ t.reg 0 = (State.reset.writeIndex 0x050).reg 0 :=
  ⟨_, rfl, by decide, by decide⟩

theorem witness_CallOnAFullStackOverflows : (fullStack 0x2300).status = .running ∧ (fullStack 0x2300).pc.toNat < 0x1000 ∧
    (fullStack 0x2300).sp.val = 16 ∧
    decodeWord (fullStack 0x2300).params.zeroDecode (fullStack 0x2300).fetchWord = .ok (.call 0x300) := by decide

theorem witness_CallOnAFullStackOverflows_fault : ∃ t, step (fullStack 0x2300) = .fault (.stackOverflow t) := ⟨_, rfl⟩

theorem witness_ReturnOnAnEmptyStackUnderflows : (withRegs 0x00EE []).status = .running ∧
    (withRegs 0x00EE []).pc.toNat < 0x1000 ∧ (withRegs 0x00EE []).sp.val = 0 ∧
    decodeWord (withRegs 0x00EE []).params.zeroDecode (withRegs 0x00EE []).fetchWord = .ok .ret := by decide

theorem witness_ReturnOnAnEmptyStackUnderflows_fault : ∃ t, step (withRegs 0x00EE []) = .fault (.stackUnderflow t) := ⟨_, rfl⟩

theorem witness_InstructionsWriteOnlyTheirFields : ∃ t, exec (.addReg 0xF 1) State.reset = .next t := ⟨_, rfl⟩

theorem witness_UnreadRegistersHaveNoInfluence : (0xF : Reg) ∉ (Instr.addReg 1 2).readRegs ∧
    (0xF : Reg) ∈ (Instr.addReg 1 2).writes.regs ∧ (0x3 : Reg) ∉ (Instr.addReg 1 2).readRegs ∧
    (0x3 : Reg) ∉ (Instr.addReg 1 2).writes.regs := by decide

theorem witness_OnlyRndReadsTheDraw : ∀ x kk, Instr.drw 0 0 15 ≠ .rnd x kk := by simp

theorem witness_CycleLeavesTimersAndKeypad : (∃ t, step State.reset = .next t) ∧
    ∃ t f, step (withRegs 0x00EE []) = .fault f ∧ f.final = some t := ⟨⟨_, rfl⟩, _, _, rfl, rfl⟩

theorem witness_RunsNeverWriteMemory : (∃ t, cycles 2 State.reset = .next t) ∧
    ∃ t f, cycles 2 (withRegs 0x00EE []) = .fault f ∧ f.final = some t := ⟨⟨_, rfl⟩, _, _, rfl, rfl⟩

theorem witness_StepKeepsTheInvariant :
    ((fullStack 0x00EE).Inv ∧ ∃ t, step (fullStack 0x00EE) = .next t) ∧
    ((fullStack 0x2300).Inv ∧ ∃ t f, step (fullStack 0x2300) = .fault f ∧ f.final = some t) :=
  ⟨⟨⟨by decide, by decide, by decide, by decide⟩, _, rfl⟩, ⟨⟨by decide, by decide, by decide, by decide⟩, _, _, rfl, rfl⟩⟩

/-- Draws that are not zero. -/
def someDraws : ResetDraws :=
  { V := Vector.replicate 16 0xAA, mem := [(0xFFF, 1)], I := 0xFFF, stack := Vector.replicate 16 0xFFF, sp := 16,
    fb := State.reset.fb.toggle 0 0, delay := 1, sound := 2, keypad := Vector.replicate 16 true }

theorem witness_ConstructedStatesMeetTheInvariant :
    ∃ s, State.construct { Params.default with resetValues := .arbitrary } someDraws [0x12, 0x00] = .ok s := ⟨_, rfl⟩

theorem witness_ParkedStatesStay : (withRegs 0x1200 []).parked := ⟨rfl, 0x200, by decide, by decide⟩

/-- 2300 at 0x200 and 00EE at 0x300 (E3 of 95_test_vectors.md), the stack pointer at its highest. -/
def callThenReturn : State :=
  { ((withRegs 0x2300 []).memWrite 0x300 0x00).memWrite 0x301 0xEE with sp := 15 }

theorem witness_CallThenReturnResumes : callThenReturn.status = .running ∧ callThenReturn.sp.val < 16 ∧
    callThenReturn.fetchWord = BitVec.ofNat 16 (0x2000 + (0x300#12).toNat) ∧
    callThenReturn.memRead ((0x300#12).setWidth 16) = 0x00#8 ∧
    callThenReturn.memRead ((0x300#12).setWidth 16 + 1) = 0xEE#8 := by decide

theorem witness_LoaderCopiesTheRom : (∃ s, State.construct Params.default someDraws [0x12, 0x00] = .ok s) ∧
    (∃ e, State.construct Params.default someDraws [] = .ok e) ∧ 1 < [0x12#8, 0x00#8].length ∧
    ((0x1FF#16).toNat < 0x200 ∧ (0x1FF#16).toNat < 0x1000) ∧ (0x200 + 2 ≤ (0xFFF#16).toNat ∧ (0xFFF#16).toNat < 0x1000) :=
  ⟨⟨_, rfl⟩, ⟨_, rfl⟩, by decide, by decide, by decide⟩

theorem witness_LongRomsAreRefused : (List.replicate 3584 (0 : Byte)).length ≤ 3584 ∧
    3584 < (List.replicate 3585 (0 : Byte)).length :=
  ⟨List.length_replicate.le, by rw [List.length_replicate]; exact Nat.lt_succ_self 3584⟩

theorem witness_ArbitraryResetDrawsTheOpenFields :
    ({ Params.default with resetValues := .arbitrary } : Params).resetValues = .arbitrary ∧
    (∃ s, State.construct { Params.default with resetValues := .arbitrary } someDraws [] = .ok s) ∧
    ((0x0A0#16).toNat < 0x050 ∨ 0x0A0 ≤ (0x0A0#16).toNat) ∧ (0x0A0#16).toNat < 0x1000 :=
  ⟨rfl, ⟨_, rfl⟩, by decide, by decide⟩

theorem witness_CanonicalMemoriesAreEqualWhenTheyReadAlike : Memory.wf [(0, 1), (0x50, 2)] = true ∧
    (∀ a, a < 4096 → Memory.read [(0, 1), (0x50, 2)] a = Memory.read [(0, 1), (0x50, 2)] a) := ⟨by decide, fun _ _ => rfl⟩

theorem witness_ResetState : ((0x04F#16).toNat % 0x1000 < 0x050 ∨ 0x0A0 ≤ (0x04F#16).toNat % 0x1000) ∧
    ((0x0A0#16).toNat % 0x1000 < 0x050 ∨ 0x0A0 ≤ (0x0A0#16).toNat % 0x1000) := by decide

end Sys2Proof.Tests
end

section
/-! PROOFS. The byte memory as reads and fetches see it (20_memory.md): the mask of R52, and with it the wrap of a
fetch at 0xFFF (R54). -/

namespace Sys2Proof.Proofs

open Sys2Proof Sys2Proof.Machine

/-- A read sees the low twelve address bits alone (R52). -/
theorem memRead_eq_read_mod (s : State) (a : Word) : s.memRead a = Memory.read s.mem (a.toNat % 0x1000) := by
  unfold State.memRead
  rw [maskAddr_toNat]

/-- Addresses that agree mod 0x1000 name the same byte (R51, R52). -/
theorem memRead_congr_mod (s : State) {a b : Word} (h : a.toNat % 0x1000 = b.toNat % 0x1000) :
    s.memRead a = s.memRead b := by
  rw [memRead_eq_read_mod, memRead_eq_read_mod, h]

/-- A fetch joins its two bytes big-endian (R54). -/
theorem fetchWord_toNat (s : State) :
    s.fetchWord.toNat = (s.memRead s.pc).toNat * 0x100 + (s.memRead (s.pc + 1)).toNat :=
  joinBytes_toNat _ _

/-- Settles O10: the mask is the remainder mod 0x1000. -/
theorem memoryReadsAreMasked : Obligations.MemoryReadsAreMasked := memRead_eq_read_mod

/-- Settles O9: at 0xFFF the second byte's address is 0x1000, which agrees with 0x000 mod 0x1000 (D5). -/
theorem fetchIsBigEndianAndWraps : Obligations.FetchIsBigEndianAndWraps := by
  intro s
  refine ⟨fetchWord_toNat s, fun hpc => ?_⟩
  have hmod : (s.pc + 1).toNat % 0x1000 = (0x000#16).toNat % 0x1000 := by rw [hpc]; decide
  exact memRead_congr_mod s hmod

end Sys2Proof.Proofs
end

section
/-! PROOFS. The decoder family by family (30_encoding.md R84): the fields of a word put together from its fields, the
answer of the decoder for each top nibble these statements speak of, and R86 to R89 from the two. -/

namespace Sys2Proof.Proofs

open Sys2Proof Sys2Proof.Machine

/-! ## The fields of the formats (R81, R82) -/

/-- A number with the digits of the `NNN` format is the word of that format. -/
theorem ofNat_eq_formNNN {v : Nat} (op : BitVec 4) (nnn : Addr) (hv : v = op.toNat * 0x1000 + nnn.toNat) :
    BitVec.ofNat 16 v = formNNN op nnn := by
  apply BitVec.eq_of_toNat_eq
  rw [BitVec.toNat_ofNat, formNNN_toNat, hv]
  omega

/-- A number with the digits of the `XYN` format is the word of that format. -/
theorem ofNat_eq_formXYN {v n : Nat} (op : BitVec 4) (x y : Reg) (hn : n < 16)
    (hv : v = op.toNat * 0x1000 + x.val * 0x100 + y.val * 0x10 + n) :
    BitVec.ofNat 16 v = formXYN op x y n := by
  apply BitVec.eq_of_toNat_eq
  rw [BitVec.toNat_ofNat, formXYN_toNat, hv]
  omega

@[simp] theorem fieldOp_formNNN (op : BitVec 4) (nnn : Addr) : fieldOp (formNNN op nnn) = op.toNat := by
  rw [fieldOp_eq, formNNN_toNat]
  omega

@[simp] theorem fieldOp_formXYN (op : BitVec 4) (x y : Reg) (n : Nat) : fieldOp (formXYN op x y n) = op.toNat := by
  rw [fieldOp_eq, formXYN_toNat]
  omega

@[simp] theorem fieldX_formXYN (op : BitVec 4) (x y : Reg) (n : Nat) : fieldX (formXYN op x y n) = x := by
  apply Fin.ext
  rw [fieldX_val, formXYN_toNat]
  omega

@[simp] theorem fieldY_formXYN (op : BitVec 4) (x y : Reg) (n : Nat) : fieldY (formXYN op x y n) = y := by
  apply Fin.ext
  rw [fieldY_val, formXYN_toNat]
  omega

@[simp] theorem fieldN_formXYN (op : BitVec 4) (x y : Reg) (n : Nat) : fieldN (formXYN op x y n) = n % 16 := by
  rw [fieldN_eq, formXYN_toNat]
  omega

/-! ## Dispatch on the top nibble (R84) -/

section Dispatch

variable {w : Word} (z : ZeroDecode)

theorem decodeWord_of_fieldOp_zero (h : fieldOp w = 0x0) : decodeWord z w = decodeZero z w := by
  simp only [decodeWord, h]

theorem decodeWord_of_fieldOp_five (h : fieldOp w = 0x5) : decodeWord z w = .ok (.seReg (fieldX w) (fieldY w)) := by
  simp only [decodeWord, h]

theorem decodeWord_of_fieldOp_eight (h : fieldOp w = 0x8) : decodeWord z w = decodeEight w := by
  simp only [decodeWord, h]

theorem decodeWord_of_fieldOp_nine (h : fieldOp w = 0x9) : decodeWord z w = .ok (.sneReg (fieldX w) (fieldY w)) := by
  simp only [decodeWord, h]

theorem decodeWord_of_fieldOp_E (h : fieldOp w = 0xE) : decodeWord z w = .error .familyE := by
  simp only [decodeWord, h]

theorem decodeWord_of_fieldOp_F (h : fieldOp w = 0xF) : decodeWord z w = .error .familyF := by
  simp only [decodeWord, h]

end Dispatch

/-! ## Family 0x0 (R86) -/

theorem fieldKK_eq_iff (w : Word) (k : Byte) : fieldKK w = k ↔ w.toNat % 256 = k.toNat := by
  rw [← BitVec.toNat_inj, fieldKK_toNat]

/-- The default setting reads the bottom byte alone. -/
theorem decodeZero_lowByte (w : Word) : decodeZero .lowByte w =
    if w.toNat % 256 = 0xE0 then .ok .cls else if w.toNat % 256 = 0xEE then .ok .ret else .error .familyZero := by
  simp only [decodeZero, fieldKK_eq_iff, BitVec.toNat_ofNat, Nat.reduceMod, Nat.reducePow]

/-- The other setting reads the whole word. -/
theorem decodeZero_fullWord (w : Word) : decodeZero .fullWord w =
    if w.toNat = 0x00E0 then .ok .cls else if w.toNat = 0x00EE then .ok .ret else .error .familyZero := by
  simp only [decodeZero, ← BitVec.toNat_inj, BitVec.toNat_ofNat, Nat.reduceMod, Nat.reducePow]

/-- Settles O4: a word below 0x1000 has top nibble 0, and `decodeZero` compares its number under each setting. -/
theorem familyZeroDecode : Obligations.FamilyZeroDecode := by
  intro w hw
  have hop : fieldOp w = 0x0 := by rw [fieldOp_eq]; omega
  rw [decodeWord_of_fieldOp_zero _ hop, decodeWord_of_fieldOp_zero _ hop]
  exact ⟨decodeZero_lowByte w, decodeZero_fullWord w⟩

/-! ## Family 0x8 (R87) -/

/-- The sub-operations the family does not have. -/
theorem decodeEight_unlisted {w : Word} (h : fieldN w = 6 ∨ 8 ≤ fieldN w) : decodeEight w = .error .familyEight := by
  unfold decodeEight
  split
  case h_8 => rfl
  all_goals omega

/-- A family-8 word written as a number decodes by its sub-operation `n`. -/
theorem decodeWord_eight {v : Nat} (z : ZeroDecode) (x y : Reg) (n : Nat) (hn : n < 16)
    (hv : v = 0x8000 + x.val * 0x100 + y.val * 0x10 + n) :
    decodeWord z (BitVec.ofNat 16 v) = decodeEight (formXYN 0x8#4 x y n) := by
  rw [ofNat_eq_formXYN 0x8#4 x y hn hv, decodeWord_of_fieldOp_eight z (fieldOp_formXYN _ x y n)]

/-- Settles O5: the word's digits are its fields, and `decodeEight` reads the last of them. -/
theorem familyEightDecode : Obligations.FamilyEightDecode := by
  intro z x y
  refine ⟨?_, ?_, ?_, ?_, ?_, ?_, ?_, fun n hn => ?_⟩
  · rw [decodeWord_eight z x y 0 (by decide) (by omega)]; simp [decodeEight]
  · rw [decodeWord_eight z x y 1 (by decide) (by omega)]; simp [decodeEight]
  · rw [decodeWord_eight z x y 2 (by decide) (by omega)]; simp [decodeEight]
  · rw [decodeWord_eight z x y 3 (by decide) (by omega)]; simp [decodeEight]
  · rw [decodeWord_eight z x y 4 (by decide) (by omega)]; simp [decodeEight]
  · rw [decodeWord_eight z x y 5 (by decide) (by omega)]; simp [decodeEight]
  · rw [decodeWord_eight z x y 7 (by decide) (by omega)]; simp [decodeEight]
  · rw [decodeWord_eight z x y n.toNat n.isLt rfl]
    apply decodeEight_unlisted
    rw [fieldN_formXYN]
    bv_omega

/-! ## Families 0x5 and 0x9 (R88), 0xE and 0xF (R89) -/

/-- Settles O7: the decoder reads x and y of these families and never n. -/
theorem registerSkipsIgnoreTheLowNibble : Obligations.RegisterSkipsIgnoreTheLowNibble := by
  intro z x y n
  rw [ofNat_eq_formXYN 0x5#4 x y n.isLt (by rfl), ofNat_eq_formXYN 0x9#4 x y n.isLt (by rfl),
    decodeWord_of_fieldOp_five z (fieldOp_formXYN _ x y _), decodeWord_of_fieldOp_nine z (fieldOp_formXYN _ x y _)]
  simp only [fieldX_formXYN, fieldY_formXYN, and_self]

/-- Settles O6: the top nibble alone rejects. -/
theorem familiesEAndFAreUnlisted : Obligations.FamiliesEAndFAreUnlisted := by
  intro z nnn
  rw [ofNat_eq_formNNN 0xE#4 nnn (by rfl), ofNat_eq_formNNN 0xF#4 nnn (by rfl)]
  exact ⟨decodeWord_of_fieldOp_E z (fieldOp_formNNN _ nnn), decodeWord_of_fieldOp_F z (fieldOp_formNNN _ nnn)⟩

end Sys2Proof.Proofs
end

section
/-! PROOFS. What one instruction can do: every change it makes lies in its row of the access matrix (10_state.md R35), and
only RET and CALL can fault (60_exceptions.md R243). -/

namespace Sys2Proof.Proofs

open Sys2Proof Sys2Proof.Machine

/-! ## Frames of the operations, and of one after another -/

/-- What two changes touch, one after the other. -/
def touchedByBoth (w w' : Touched) : Touched :=
  { regs  := w.regs ++ w'.regs
    pc    := w.pc || w'.pc
    index := w.index || w'.index
    stack := w.stack || w'.stack
    fb    := w.fb || w'.fb
    draws := w.draws || w'.draws }

/-- A value that each of two changes keeps, unless it touches it, is kept by both in a row unless one touches it. -/
theorem kept_trans {α : Sort _} {a b : Bool} {x y z : α} (h : a = false → y = x) (h' : b = false → z = y)
    (hab : (a || b) = false) : z = x := by
  obtain ⟨ha, hb⟩ := Bool.or_eq_false_iff.mp hab
  exact (h' hb).trans (h ha)

theorem changesOnly_trans {w w' : Touched} {s t u : State} (h : ChangesOnly w s t) (h' : ChangesOnly w' t u) :
    ChangesOnly (touchedByBoth w w') s u where
  regs r hr := by
    obtain ⟨hw, hw'⟩ := not_or.mp (mt List.mem_append.mpr hr)
    exact (h'.regs r hw').trans (h.regs r hw)
  pc := kept_trans h.pc h'.pc
  index := kept_trans h.index h'.index
  sp := kept_trans h.sp h'.sp
  stack hs k := kept_trans (h.stack · k) (h'.stack · k) hs
  fb hf y x := kept_trans (h.fb · y x) (h'.fb · y x) hf
  draws := kept_trans h.draws h'.draws
  memory a := (h'.memory a).trans (h.memory a)
  delay := h'.delay.trans h.delay
  sound := h'.sound.trans h.sound
  keypad := h'.keypad.trans h.keypad
  status := h'.status.trans h.status
  params := h'.params.trans h.params

/-- A store of `I` changes nothing else (R26). -/
theorem changesOnly_writeIndex (s : State) (v : Word) : ChangesOnly { index := true } s (s.writeIndex v) := by
  constructor <;> simp

/-- A stored grid changes the framebuffer alone (R28). -/
theorem changesOnly_writeFb (s : State) (g : Framebuffer) : ChangesOnly { fb := true } s (s.writeFb g) := by
  constructor <;> simp

/-- Consuming a draw moves the counter alone. -/
theorem changesOnly_consumeDraw (s : State) : ChangesOnly { draws := true } s s.consumeDraw := by
  constructor <;> simp

/-- New entries and a new `sp` change the return stack alone (R27). -/
theorem changesOnly_stack (s : State) (entries : Vector Word 16) (n : Fin 17) :
    ChangesOnly { stack := true } s { s with stack := entries, sp := n } where
  regs _ _ := rfl
  pc _ := rfl
  index _ := rfl
  sp h := absurd h (by simp)
  stack h := absurd h (by simp)
  fb _ _ _ := rfl
  draws _ := rfl
  memory _ := rfl
  delay := rfl
  sound := rfl
  keypad := rfl
  status := rfl
  params := rfl

theorem changesOnly_pushReturn {s t : State} {a : Word} (h : s.pushReturn a = some t) :
    ChangesOnly { stack := true } s t := by
  obtain ⟨_, rfl⟩ := State.pushReturn_eq_some.mp h
  exact changesOnly_stack s _ _

theorem changesOnly_popReturn {s t : State} {a : Word} (h : s.popReturn = some (a, t)) :
    ChangesOnly { stack := true } s t := by
  obtain ⟨_, -, rfl⟩ := State.popReturn_eq_some.mp h
  exact changesOnly_stack s s.stack _

/-- A finished drawing changes the grid and VF (R214). -/
theorem changesOnly_writeDrawing (s : State) (d : Drawing) :
    ChangesOnly { regs := [flagReg], fb := true } s (s.writeDrawing d) :=
  changesOnly_trans (changesOnly_writeFb s d.fb) (ChangesOnly.writeReg _ flagReg _)

/-- RND's effect changes Vx and the counter (R201). -/
theorem changesOnly_randomAnd (s : State) (r : Byte) (x : Reg) (kk : Byte) :
    ChangesOnly { regs := [x], draws := true } s (s.consumeDraw.randomAnd r x kk) :=
  changesOnly_trans (changesOnly_consumeDraw s) (ChangesOnly.writeReg _ x _)

/-! ## What an instruction can answer -/

/-- RET pops its target or, with nothing to pop, raises StackUnderflow (R131, R241). -/
theorem exec_ret_cases (s : State) :
    (∃ a u, s.popReturn = some (a, u) ∧ exec .ret s = .next (u.writePc a)) ∨
    (s.sp.val = 0 ∧ exec .ret s = raiseFault .stackUnderflow s) := by
  cases h : s.popReturn with
  | some p => exact .inl ⟨p.1, p.2, rfl, by simp only [exec, execRet, h]⟩
  | none => exact .inr ⟨State.popReturn_eq_none.mp h, by simp only [exec, execRet, h]⟩

/-- CALL pushes the following word's address or, with no room, raises StackOverflow (R133, R240). -/
theorem exec_call_cases (nnn : Addr) (s : State) :
    (∃ u, s.pushReturn s.pc = some u ∧ exec (.call nnn) s = .next (u.writePc (zextAddr nnn))) ∨
    (s.sp.val = 16 ∧ exec (.call nnn) s = raiseFault .stackOverflow s) := by
  cases h : s.pushReturn s.pc with
  | some u => exact .inl ⟨u, rfl, by simp only [exec, execCall, h]⟩
  | none => exact .inr ⟨State.pushReturn_eq_none.mp h, by simp only [exec, execCall, h]⟩

/-- Every instruction completes, but RET on an empty stack and CALL on a full one (R243). A completed instruction has
written no field outside its row of the access matrix (R35). -/
theorem exec_cases (i : Instr) (s : State) :
    (∃ t, exec i s = .next t ∧ ChangesOnly i.writes s t) ∨
    (i = .ret ∧ s.sp.val = 0 ∧ exec i s = raiseFault .stackUnderflow s) ∨
    (∃ nnn, i = .call nnn ∧ s.sp.val = 16 ∧ exec i s = raiseFault .stackOverflow s) := by
  cases i with
  | ret =>
    rcases exec_ret_cases s with ⟨a, u, hpop, h⟩ | ⟨hsp, h⟩
    · exact .inl ⟨_, h, changesOnly_trans (changesOnly_popReturn hpop) (ChangesOnly.writePc u a)⟩
    · exact .inr (.inl ⟨rfl, hsp, h⟩)
  | call nnn =>
    rcases exec_call_cases nnn s with ⟨u, hpush, h⟩ | ⟨hsp, h⟩
    · exact .inl ⟨_, h, changesOnly_trans (changesOnly_pushReturn hpush) (ChangesOnly.writePc u _)⟩
    · exact .inr (.inr ⟨nnn, rfl, hsp, h⟩)
  | jp | jpV0 => exact .inl ⟨_, rfl, ChangesOnly.writePc s _⟩
  | seImm | sneImm | seReg | sneReg => exact .inl ⟨_, rfl, ChangesOnly.skipIf s _⟩
  | ldImm | addImm | ldReg | orReg | andReg | xorReg => exact .inl ⟨_, rfl, ChangesOnly.writeReg s _ _⟩
  | addReg | sub | subn => exact .inl ⟨_, rfl, ChangesOnly.writeResultFlag s _ _ _⟩
  | ldI => exact .inl ⟨_, rfl, changesOnly_writeIndex s _⟩
  | rnd => exact .inl ⟨_, rfl, changesOnly_randomAnd s _ _ _⟩
  | cls => exact .inl ⟨_, rfl, changesOnly_writeFb s _⟩
  | drw => exact .inl ⟨_, rfl, changesOnly_writeDrawing s _⟩

/-- A completed instruction keeps to its row of the access matrix (R35). -/
theorem exec_next_changesOnly {i : Instr} {s t : State} (h : exec i s = .next t) : ChangesOnly i.writes s t := by
  rcases exec_cases i s with ⟨u, hu, hframe⟩ | ⟨-, -, hf⟩ | ⟨_, -, -, hf⟩
  · obtain rfl : u = t := Host.Outcome.next.inj (hu.symm.trans h)
    exact hframe
  · exact absurd (hf.symm.trans h) (raiseFault_ne_next _ _ _)
  · exact absurd (hf.symm.trans h) (raiseFault_ne_next _ _ _)

/-- A faulting instruction has raised a stack fault on the state it was given (R113, R243). -/
theorem exec_fault_eq_raiseFault {i : Instr} {s : State} {f : Fault} (h : exec i s = .fault f) :
    ∃ r, raiseFault r s = .fault f := by
  rcases exec_cases i s with ⟨u, hu, -⟩ | ⟨-, -, hf⟩ | ⟨_, -, -, hf⟩
  · cases hu.symm.trans h
  · exact ⟨_, hf.symm.trans h⟩
  · exact ⟨_, hf.symm.trans h⟩

end Sys2Proof.Proofs
end

section
/-! PROOFS. The cycle (40_cycle.md): what it runs (R112), how it can end in a fault (R113), and the fields it never
touches (R115). -/

namespace Sys2Proof.Proofs

open Sys2Proof Sys2Proof.Machine

/-! ## What a cycle runs (R111, R112) -/

/-- The advance adds 2 to `pc` mod 0x1000 and changes nothing else (R111, D4). -/
theorem advance_eq (s : State) : s.advance = { s with pc := BitVec.ofNat 16 ((s.pc.toNat + 2) % 0x1000) } := by
  have hpc : maskAddr (s.pc + 2) = BitVec.ofNat 16 ((s.pc.toNat + 2) % 0x1000) := by
    apply BitVec.eq_of_toNat_eq
    rw [maskAddr_toNat, BitVec.toNat_ofNat]
    bv_omega
  unfold State.advance State.writePc
  rw [hpc]

/-- A running core's cycle is its fetched word, run after the advance (R116). -/
theorem step_of_running {s : State} (h : s.status = .running) : step s = runWord s.fetchWord s.advance := by
  simp only [step, h]

/-- A word that decodes runs its instruction (R112). -/
theorem runWord_of_decodeWord {s : State} {w : Word} {i : Instr} (h : decodeWord s.params.zeroDecode w = .ok i) :
    runWord w s = exec i s := by
  simp only [runWord, h]

/-- Two bytes decode to what their word decodes to, with nothing left over (R54, R80). -/
theorem decodeBytes_pair_eq_ok {z : ZeroDecode} {hi lo : Byte} {i : Instr} :
    decodeBytes z [hi, lo] = .ok (i, []) ↔ decodeWord z (joinBytes hi lo) = .ok i := by
  cases h : decodeWord z (joinBytes hi lo) <;> simp [decodeBytes, h]

/-- Settles O11: the two bytes are the fetched word, and the state handed to `exec` is the one after the advance. -/
theorem stepRunsTheDecodedInstruction : Obligations.StepRunsTheDecodedInstruction := by
  intro s i hrun hdec
  have hword : decodeWord s.advance.params.zeroDecode s.fetchWord = .ok i := decodeBytes_pair_eq_ok.mp hdec
  rw [step_of_running hrun, runWord_of_decodeWord hword, advance_eq]

/-! ## How a cycle faults (R110, R113) -/

/-- A cycle that ends in a fault found the core halted, or ran an instruction that raised a stack fault on the state after
the advance. -/
theorem step_fault_cases {s : State} {f : Fault} (h : step s = .fault f) :
    (∃ r, s.status = .faulted r ∧ f = .halted r) ∨
    (s.status = .running ∧ ∃ i, decodeWord s.params.zeroDecode s.fetchWord = .ok i ∧ exec i s.advance = .fault f) := by
  cases hs : s.status with
  | faulted r =>
    simp only [step, hs] at h
    exact .inl ⟨r, rfl, (Host.Outcome.fault.inj h).symm⟩
  | running =>
    rw [step_of_running hs] at h
    cases hd : decodeWord s.params.zeroDecode s.fetchWord with
    | ok i =>
      have hword : decodeWord s.advance.params.zeroDecode s.fetchWord = .ok i := hd
      exact .inr ⟨rfl, i, rfl, runWord_of_decodeWord hword ▸ h⟩
    | error why =>
      cases hu : s.params.unlisted <;> simp [runWord, hd, execUnlisted, hu] at h

/-- The final state a raised fault carries differs from the state it was raised on in the status alone (R113, D14). -/
theorem raiseFault_final {r : StackFault} {s t : State} {f : Fault} (h : raiseFault r s = .fault f)
    (ht : f.final = some t) : t = s.writeStatus (.faulted r) := by
  rw [raiseFault_eq] at h
  cases r <;> cases h <;> exact (Option.some.inj ht).symm

/-- The final state of a faulted cycle is the state after the advance, with the fault recorded (R113, D14). -/
theorem step_fault_final {s t : State} {f : Fault} (h : step s = .fault f) (ht : f.final = some t) :
    ∃ r, t = s.advance.writeStatus (.faulted r) := by
  rcases step_fault_cases h with ⟨r, -, rfl⟩ | ⟨-, i, -, hexec⟩
  · cases ht
  · obtain ⟨r, hr⟩ := exec_fault_eq_raiseFault hexec
    exact ⟨r, raiseFault_final hr ht⟩

/-! ## What no cycle touches (R115) -/

/-- Settles O42: no row of the access matrix has the timers or the keypad, and neither the advance nor the record of a
fault writes them. -/
theorem cycleLeavesTimersAndKeypad : Obligations.CycleLeavesTimersAndKeypad := by
  rintro s t (hnext | ⟨f, hfault, hfinal⟩)
  · obtain ⟨-, ⟨i, -, hexec⟩ | ⟨why, -, -, rfl⟩⟩ := step_next_cases hnext
    · have hframe : ChangesOnly i.writes s.advance t := exec_next_changesOnly hexec
      exact ⟨hframe.delay, hframe.sound, hframe.keypad⟩
    · simp
  · obtain ⟨r, rfl⟩ := step_fault_final hfault hfinal
    simp

end Sys2Proof.Proofs
end

section
/-! PROOFS. The decoder on words of the `NNN` and `XKK` formats (30_encoding.md R81, R82), as far as control flow needs it:
their fields, and the answer for its top nibbles (R84). -/

namespace Sys2Proof.Proofs

open Sys2Proof Sys2Proof.Machine

/-! ## The fields of the formats -/

@[simp] theorem fieldNNN_formNNN (op : BitVec 4) (nnn : Addr) : fieldNNN (formNNN op nnn) = nnn := by
  apply BitVec.eq_of_toNat_eq
  rw [fieldNNN_toNat, formNNN_toNat]
  omega

/-- A number with the digits of the `XKK` format is the word of that format. -/
theorem ofNat_eq_formXKK {v : Nat} (op : BitVec 4) (x : Reg) (kk : Byte)
    (hv : v = op.toNat * 0x1000 + x.val * 0x100 + kk.toNat) : BitVec.ofNat 16 v = formXKK op x kk := by
  apply BitVec.eq_of_toNat_eq
  rw [BitVec.toNat_ofNat, formXKK_toNat, hv]
  omega

@[simp] theorem fieldOp_formXKK (op : BitVec 4) (x : Reg) (kk : Byte) : fieldOp (formXKK op x kk) = op.toNat := by
  rw [fieldOp_eq, formXKK_toNat]
  omega

@[simp] theorem fieldX_formXKK (op : BitVec 4) (x : Reg) (kk : Byte) : fieldX (formXKK op x kk) = x := by
  apply Fin.ext
  rw [fieldX_val, formXKK_toNat]
  omega

@[simp] theorem fieldKK_formXKK (op : BitVec 4) (x : Reg) (kk : Byte) : fieldKK (formXKK op x kk) = kk := by
  apply BitVec.eq_of_toNat_eq
  rw [fieldKK_toNat, formXKK_toNat]
  omega

/-! ## Dispatch on the top nibble (R84) -/

section Dispatch

variable {w : Word} (z : ZeroDecode)

theorem decodeWord_of_fieldOp_one (h : fieldOp w = 0x1) : decodeWord z w = .ok (.jp (fieldNNN w)) := by
  simp only [decodeWord, h]

theorem decodeWord_of_fieldOp_two (h : fieldOp w = 0x2) : decodeWord z w = .ok (.call (fieldNNN w)) := by
  simp only [decodeWord, h]

theorem decodeWord_of_fieldOp_three (h : fieldOp w = 0x3) :
    decodeWord z w = .ok (.seImm (fieldX w) (fieldKK w)) := by
  simp only [decodeWord, h]

theorem decodeWord_of_fieldOp_four (h : fieldOp w = 0x4) :
    decodeWord z w = .ok (.sneImm (fieldX w) (fieldKK w)) := by
  simp only [decodeWord, h]

theorem decodeWord_of_fieldOp_B (h : fieldOp w = 0xB) : decodeWord z w = .ok (.jpV0 (fieldNNN w)) := by
  simp only [decodeWord, h]

end Dispatch

end Sys2Proof.Proofs
end

section
/-! PROOFS. Control flow (41_control_flow.md R130 to R138): the skips, the jumps, and RET and CALL with their faults. Each
frame is the instruction's row of the access matrix (R35). -/

namespace Sys2Proof.Proofs

open Sys2Proof Sys2Proof.Machine

/-! ## Jump targets -/

/-- An address immediate keeps its number in 16 bits (R82, R83). -/
theorem zextAddr_toNat (nnn : Addr) : (zextAddr nnn).toNat = nnn.toNat := by
  rw [zextAddr, BitVec.toNat_setWidth]
  omega

/-- The sum of an address immediate and a byte fits in 16 bits (R138). -/
theorem offsetTarget_toNat (nnn : Addr) (v0 : Byte) : (offsetTarget nnn v0).toNat = nnn.toNat + v0.toNat := by
  rw [offsetTarget, BitVec.toNat_add, zextAddr_toNat, BitVec.toNat_setWidth]
  omega

/-- A write of `pc` stores the target mod 0x1000 (R24, D4). -/
theorem writePc_pc_toNat (s : State) (a : Word) : (s.writePc a).pc.toNat = a.toNat % 0x1000 :=
  maskAddr_toNat a

/-- An address immediate is stored in `pc` as it is (R83). -/
theorem writePc_zextAddr_pc_toNat (s : State) (nnn : Addr) : (s.writePc (zextAddr nnn)).pc.toNat = nnn.toNat := by
  rw [State.writePc_pc, maskAddr_zextAddr, zextAddr_toNat]

/-! ## Skips (R130, R134 to R137) -/

/-- Settles O16: a taken skip is the cycle's advance once more. -/
theorem skipHelperAddsTwo : Obligations.SkipHelperAddsTwo := fun s => ⟨advance_eq s, rfl⟩

/-- An instruction that is a skip on `c` moves `pc` by 2 exactly when the condition `p` that `c` decides holds, and writes
nothing else. -/
theorem exec_skip {i : Instr} {s : State} {c : Bool} {p : Prop} [Decidable p] (hexec : exec i s = .next (s.skipIf c))
    (hc : c = true ↔ p) : ∃ t, exec i s = .next t ∧ ChangesOnly { pc := true } s t ∧
      t.pc = if p then BitVec.ofNat 16 ((s.pc.toNat + 2) % 0x1000) else s.pc := by
  refine ⟨_, hexec, ChangesOnly.skipIf s c, ?_⟩
  obtain ⟨htaken, hnot⟩ := skipHelperAddsTwo s
  by_cases hp : p
  · rw [hc.mpr hp, htaken, if_pos hp]
  · rw [Bool.eq_false_iff.mpr (mt hc.mp hp), hnot, if_neg hp]

/-- Settles O20: the words' digits are their fields, and the handlers are skips on Vx compared with kk. -/
theorem immediateSkips : Obligations.ImmediateSkips := by
  intro s x kk
  refine ⟨fun z => ?_, fun z => ?_, exec_skip rfl beq_iff_eq, exec_skip rfl bne_iff_ne⟩
  · rw [ofNat_eq_formXKK 0x3#4 x kk (by rfl), decodeWord_of_fieldOp_three z (fieldOp_formXKK _ x kk), fieldX_formXKK,
      fieldKK_formXKK]
  · rw [ofNat_eq_formXKK 0x4#4 x kk (by rfl), decodeWord_of_fieldOp_four z (fieldOp_formXKK _ x kk), fieldX_formXKK,
      fieldKK_formXKK]

/-- Settles O21: O7 has the encodings, and the handlers are skips on Vx compared with Vy. -/
theorem registerSkips : Obligations.RegisterSkips := fun _ x y =>
  ⟨fun z n => (registerSkipsIgnoreTheLowNibble z x y n).1, fun z n => (registerSkipsIgnoreTheLowNibble z x y n).2,
    exec_skip rfl beq_iff_eq, exec_skip rfl bne_iff_ne⟩

/-! ## Jumps (R132, R138) -/

/-- Settles O18: the handler is one write of `pc`. -/
theorem jumpLoadsTheProgramCounter : Obligations.JumpLoadsTheProgramCounter := by
  intro s nnn
  refine ⟨fun z => ?_, s.writePc (zextAddr nnn), rfl, writePc_zextAddr_pc_toNat s nnn, ChangesOnly.writePc s _⟩
  rw [ofNat_eq_formNNN 0x1#4 nnn (by rfl), decodeWord_of_fieldOp_one z (fieldOp_formNNN _ nnn), fieldNNN_formNNN]

/-- Settles O22: the 16-bit sum does not wrap, so its one reduction is that of the write of `pc`. -/
theorem jumpWithOffsetAddsV0 : Obligations.JumpWithOffsetAddsV0 := by
  intro s nnn
  refine ⟨fun z => ?_, s.writePc (offsetTarget nnn (s.reg 0)), rfl, ?_, ChangesOnly.writePc s _⟩
  · rw [ofNat_eq_formNNN 0xB#4 nnn (by rfl), decodeWord_of_fieldOp_B z (fieldOp_formNNN _ nnn), fieldNNN_formNNN]
  · rw [writePc_pc_toNat, offsetTarget_toNat]

/-! ## RET (R131, R241) -/

/-- RET with a live entry: `sp` one less, `pc` the entry below the old `sp`, every entry kept. -/
theorem exec_ret_of_live {s : State} (hsp : 0 < s.sp.val) : ∃ t, exec .ret s = .next t ∧ t.sp.val = s.sp.val - 1 ∧
    (∀ k : Fin 16, k.val + 1 = s.sp.val → t.pc.toNat = (s.stackEntry k).toNat % 0x1000) ∧
    ∀ k : Fin 16, t.stackEntry k = s.stackEntry k := by
  rcases exec_ret_cases s with ⟨a, u, hpop, hexec⟩ | ⟨hempty, -⟩
  · obtain ⟨_, rfl, rfl⟩ := State.popReturn_eq_some.mp hpop
    refine ⟨_, hexec, rfl, fun k hk => ?_, fun _ => rfl⟩
    have htop : k = ⟨s.sp.val - 1, by omega⟩ := Fin.ext (Nat.eq_sub_of_add_eq hk)
    rw [writePc_pc_toNat, htop]
  · omega

/-- RET on an empty stack raises StackUnderflow. -/
theorem exec_ret_of_empty {s : State} (hsp : s.sp.val = 0) : exec .ret s = raiseFault .stackUnderflow s := by
  rcases exec_ret_cases s with ⟨a, u, hpop, -⟩ | ⟨-, hexec⟩
  · obtain ⟨hlive, -⟩ := State.popReturn_eq_some.mp hpop
    omega
  · exact hexec

/-- Settles O17: a 0nEE word is below 0x1000 with bottom byte EE, and RET either pops or underflows. -/
theorem returnPopsTheProgramCounter : Obligations.ReturnPopsTheProgramCounter := by
  intro s
  refine ⟨fun z => by cases z <;> rfl, fun n => ?_, fun hsp => ?_, exec_ret_of_empty⟩
  · have hw : (BitVec.ofNat 16 (n.toNat * 0x100 + 0xEE)).toNat = n.toNat * 0x100 + 0xEE := by
      rw [BitVec.toNat_ofNat]
      omega
    rw [(familyZeroDecode _ (by omega)).1, hw, if_neg (by omega), if_pos (by omega)]
  · obtain ⟨t, hexec, hcount, hpc, hentries⟩ := exec_ret_of_live hsp
    exact ⟨t, hexec, hcount, hpc, hentries, exec_next_changesOnly hexec⟩

/-! ## CALL (R133, R240) -/

/-- CALL with room: the address of the following word at the old `sp`, every other entry kept, `sp` one more, `pc` the
target. -/
theorem exec_call_of_room {s : State} (nnn : Addr) (hsp : s.sp.val < 16) : ∃ t, exec (.call nnn) s = .next t ∧
    t.pc.toNat = nnn.toNat ∧ t.sp.val = s.sp.val + 1 ∧
    ∀ k : Fin 16, t.stackEntry k = if k.val = s.sp.val then s.pc else s.stackEntry k := by
  rcases exec_call_cases nnn s with ⟨u, hpush, hexec⟩ | ⟨hfull, -⟩
  · obtain ⟨_, rfl⟩ := State.pushReturn_eq_some.mp hpush
    refine ⟨_, hexec, writePc_zextAddr_pc_toNat _ nnn, rfl, fun k => ?_⟩
    simp [State.stackEntry, Vector.get_eq_getElem, Vector.getElem_set, eq_comm]
  · omega

/-- CALL on a full stack raises StackOverflow. -/
theorem exec_call_of_full {s : State} (nnn : Addr) (hsp : s.sp.val = 16) :
    exec (.call nnn) s = raiseFault .stackOverflow s := by
  rcases exec_call_cases nnn s with ⟨u, hpush, -⟩ | ⟨-, hexec⟩
  · obtain ⟨hroom, -⟩ := State.pushReturn_eq_some.mp hpush
    omega
  · exact hexec

/-- Settles O19: CALL either pushes and jumps or overflows. -/
theorem callPushesTheFollowingAddress : Obligations.CallPushesTheFollowingAddress := by
  intro s nnn
  refine ⟨fun z => ?_, fun hsp => ?_, exec_call_of_full nnn⟩
  · rw [ofNat_eq_formNNN 0x2#4 nnn (by rfl), decodeWord_of_fieldOp_two z (fieldOp_formNNN _ nnn), fieldNNN_formNNN]
  · obtain ⟨t, hexec, hpc, hcount, hentries⟩ := exec_call_of_room nnn hsp
    exact ⟨t, hexec, hpc, hcount, hentries, exec_next_changesOnly hexec⟩

end Sys2Proof.Proofs
end

section
/-! PROOFS. Register loads, arithmetic and logic (42_arithmetic_logic.md R160 to R174): the words of the immediate forms, the
write order of result and flag (R168), and what each instruction leaves in Vx and VF. -/

namespace Sys2Proof.Proofs

open Sys2Proof Sys2Proof.Machine

/-! ## Encodings of the immediate forms (R84) -/

theorem decodeWord_of_fieldOp_six {w : Word} (z : ZeroDecode) (h : fieldOp w = 0x6) :
    decodeWord z w = .ok (.ldImm (fieldX w) (fieldKK w)) := by
  simp only [decodeWord, h]

theorem decodeWord_of_fieldOp_seven {w : Word} (z : ZeroDecode) (h : fieldOp w = 0x7) :
    decodeWord z w = .ok (.addImm (fieldX w) (fieldKK w)) := by
  simp only [decodeWord, h]

/-! ## Instructions that write Vx alone (R160 to R165) -/

/-- Settles O23: the word's digits are its fields, and the handler is one register write. -/
theorem loadImmediate : Obligations.LoadImmediate := by
  intro s x kk
  refine ⟨fun z => ?_, s.writeReg x kk, rfl, s.reg_writeReg_same x kk, ChangesOnly.writeReg s x kk⟩
  rw [ofNat_eq_formXKK 0x6#4 x kk (by rfl), decodeWord_of_fieldOp_six z (fieldOp_formXKK _ x kk), fieldX_formXKK,
    fieldKK_formXKK]

/-- Settles O24: the sum of bytes is the sum mod 256, and the handler writes Vx alone. -/
theorem addImmediateWrapsWithoutFlag : Obligations.AddImmediateWrapsWithoutFlag := by
  intro s x kk
  refine ⟨fun z => ?_, s.writeReg x (s.reg x + kk), rfl, ?_, ChangesOnly.writeReg s x _⟩
  · rw [ofNat_eq_formXKK 0x7#4 x kk (by rfl), decodeWord_of_fieldOp_seven z (fieldOp_formXKK _ x kk), fieldX_formXKK,
      fieldKK_formXKK]
  · rw [State.reg_writeReg_same, BitVec.toNat_add]

/-- Settles O25: O5 has the encoding, and the handler is one register write. -/
theorem registerMove : Obligations.RegisterMove := by
  intro s x y
  refine ⟨fun z => ?_, s.writeReg x (s.reg y), rfl, s.reg_writeReg_same x _, ChangesOnly.writeReg s x _⟩
  obtain ⟨hld, -⟩ := familyEightDecode z x y
  exact hld

/-- An instruction that writes one byte to Vx leaves there whatever holds of that byte, and nothing else changes. -/
theorem exec_writeReg {i : Instr} {s : State} {x : Reg} {v : Byte} (P : Byte → Prop)
    (hexec : exec i s = .next (s.writeReg x v)) (hv : P v) :
    ∃ t, exec i s = .next t ∧ ChangesOnly { regs := [x] } s t ∧ P (t.reg x) :=
  ⟨_, hexec, ChangesOnly.writeReg s x v, by rwa [State.reg_writeReg_same]⟩

/-- Every bit of `v` is the operation `op` on the bits of `a` and `b` at its place. -/
def BitsCombine (op : Bool → Bool → Bool) (a b v : Byte) : Prop :=
  ∀ k : Nat, v.getLsbD k = op (a.getLsbD k) (b.getLsbD k)

/-- Settles O26: O5 has the encodings, and each handler writes the operation on whole bytes, which is the operation on
their bits. -/
theorem bitwiseOperations : Obligations.BitwiseOperations := by
  intro s x y
  refine ⟨fun z => ?_,
    exec_writeReg (BitsCombine or (s.reg x) (s.reg y)) rfl fun _ => BitVec.getLsbD_or,
    exec_writeReg (BitsCombine and (s.reg x) (s.reg y)) rfl fun _ => BitVec.getLsbD_and,
    exec_writeReg (BitsCombine xor (s.reg x) (s.reg y)) rfl fun _ => BitVec.getLsbD_xor⟩
  obtain ⟨-, hor, hand, hxor, -⟩ := familyEightDecode z x y
  exact ⟨hor, hand, hxor⟩

/-! ## The write order of result and flag (R168, D8) -/

/-- Vx ends with the result unless it is VF and the flag is written last. -/
theorem reg_writeResultFlag_result {s : State} {x : Reg} (a b : Byte)
    (h : x ≠ flagReg ∨ s.params.vfOrder = .resultLast) : (s.writeResultFlag x a b).reg x = a := by
  rw [State.reg_writeResultFlag]
  by_cases hx : x = flagReg
  · have hlast : s.params.vfOrder = .resultLast := h.resolve_left (not_not_intro hx)
    simp [hx, hlast]
  · simp [hx]

/-- VF ends with the flag unless it is Vx and the result is written last. -/
theorem reg_writeResultFlag_flag {s : State} {x : Reg} (a b : Byte)
    (h : x ≠ flagReg ∨ s.params.vfOrder = .flagLast) : (s.writeResultFlag x a b).reg flagReg = b := by
  rw [State.reg_writeResultFlag]
  rcases h with hx | hlast
  · simp [hx.symm]
  · simp [hlast]

/-- Settles O27: the later of the two writes remains where both name VF. -/
theorem resultAndFlagWriteOrder : Obligations.ResultAndFlagWriteOrder := by
  intro s x result flag
  refine ⟨fun hx => ⟨reg_writeResultFlag_result _ _ (.inl hx), reg_writeResultFlag_flag _ _ (.inl hx)⟩,
    fun _ hlast => reg_writeResultFlag_flag _ _ (.inr hlast), ?_, ChangesOnly.writeResultFlag s x result flag⟩
  rintro rfl hlast
  exact reg_writeResultFlag_result _ _ (.inr hlast)

/-- An instruction that writes a result and a flag leaves in Vx whatever holds of the result and in VF the flag, as the
write order has it, and nothing else changes. -/
theorem exec_writeResultFlag {i : Instr} {s : State} {x : Reg} {result flag : Byte} (P : Byte → Prop)
    (hexec : exec i s = .next (s.writeResultFlag x result flag)) (hresult : P result) :
    ∃ t, exec i s = .next t ∧ ChangesOnly { regs := [x, 0xF] } s t ∧ (x ≠ 0xF → P (t.reg x)) ∧
      (x = 0xF → s.params.vfOrder = .resultLast → P (t.reg 0xF)) ∧
      (x ≠ 0xF ∨ s.params.vfOrder = .flagLast → t.reg 0xF = flag) := by
  obtain ⟨hother, -, hlast, hframe⟩ := resultAndFlagWriteOrder s x result flag
  refine ⟨_, hexec, hframe, fun hx => ?_, fun hx horder => ?_, reg_writeResultFlag_flag result flag⟩
  · rwa [(hother hx).1]
  · rwa [hlast hx horder]

/-! ## Sums, differences and their flags (R166, R170, R172, R174) -/

/-- A flag is 1 where its condition holds and 0 where it does not (R23). -/
theorem flagByte_decide (p : Prop) [Decidable p] : flagByte (decide p) = if p then 1 else 0 := by
  simp only [flagByte, decide_eq_true_eq]

/-- A difference of bytes is the difference mod 256 (R166). -/
theorem toNat_sub_eq_emod (a b : Byte) : ((a - b).toNat : Int) = ((a.toNat : Int) - (b.toNat : Int)) % 256 := by
  rw [BitVec.toNat_sub]
  omega

/-- Settles O28: the sum of bytes is the sum mod 256, and the carry is the exact sum compared with 255. -/
theorem addRegistersWrapsAndCarries : Obligations.AddRegistersWrapsAndCarries := by
  intro s x y
  refine ⟨fun z => ?_, ?_⟩
  · obtain ⟨-, -, -, -, hadd, -⟩ := familyEightDecode z x y
    exact hadd
  · rw [← flagByte_decide]
    exact exec_writeResultFlag (fun v => v.toNat = ((s.reg x).toNat + (s.reg y).toNat) % 256) rfl (BitVec.toNat_add _ _)

/-- An instruction that subtracts `b` from `a` leaves the difference mod 256 in Vx and NOT borrow in VF, as the write order
has it (R172, R174). -/
theorem exec_subtract {i : Instr} {s : State} {x : Reg} {a b : Byte}
    (hexec : exec i s = .next (s.writeResultFlag x (a - b) (flagByte (notBorrow a b)))) :
    ∃ t, exec i s = .next t ∧ ChangesOnly { regs := [x, 0xF] } s t ∧
      (x ≠ 0xF → ((t.reg x).toNat : Int) = ((a.toNat : Int) - (b.toNat : Int)) % 256) ∧
      (x = 0xF → s.params.vfOrder = .resultLast →
        ((t.reg 0xF).toNat : Int) = ((a.toNat : Int) - (b.toNat : Int)) % 256) ∧
      (x ≠ 0xF ∨ s.params.vfOrder = .flagLast → t.reg 0xF = if a.toNat ≥ b.toNat then 1 else 0) := by
  rw [← flagByte_decide]
  exact exec_writeResultFlag (fun v => (v.toNat : Int) = ((a.toNat : Int) - (b.toNat : Int)) % 256) hexec
    (toNat_sub_eq_emod a b)

/-- Settles O29: O5 has the encoding, and SUB subtracts Vy from Vx. -/
theorem subtractWrapsAndClearsFlagOnBorrow : Obligations.SubtractWrapsAndClearsFlagOnBorrow := by
  intro s x y
  refine ⟨fun z => ?_, exec_subtract rfl⟩
  obtain ⟨-, -, -, -, -, hsub, -⟩ := familyEightDecode z x y
  exact hsub

/-- Settles O30: O5 has the encoding, and SUBN subtracts Vx from Vy. -/
theorem subtractReverseWrapsAndClearsFlagOnBorrow : Obligations.SubtractReverseWrapsAndClearsFlagOnBorrow := by
  intro s x y
  refine ⟨fun z => ?_, exec_subtract rfl⟩
  obtain ⟨-, -, -, -, -, -, hsubn, -⟩ := familyEightDecode z x y
  exact hsubn

end Sys2Proof.Proofs
end

section
/-! PROOFS. Load-index (43_index_random.md R200): the one word family that decodes to it, its effect, and that its row of the
access matrix is the only one that names `I` (10_state.md R35). -/

namespace Sys2Proof.Proofs

open Sys2Proof Sys2Proof.Machine

theorem decodeWord_of_fieldOp_A {w : Word} (z : ZeroDecode) (h : fieldOp w = 0xA) :
    decodeWord z w = .ok (.ldI (fieldNNN w)) := by
  simp only [decodeWord, h]

/-- Load-index alone has `I` in its written-by column (R35, R200). -/
theorem writes_index_of_ne_ldI {i : Instr} (hi : ∀ a, i ≠ .ldI a) : i.writes.index = false := by
  cases i with
  | ldI nnn => exact absurd rfl (hi nnn)
  | _ => rfl

/-- Settles O31: the handler is one store of `I`, and the frame of every other instruction holds `I`. -/
theorem loadIndex : Obligations.LoadIndex := by
  intro s nnn
  refine ⟨fun z => ?_, ⟨s.writeIndex (zextAddr nnn), rfl, zextAddr_toNat nnn, changesOnly_writeIndex s _⟩,
    fun i t hi hexec => (exec_next_changesOnly hexec).index (writes_index_of_ne_ldI hi)⟩
  rw [ofNat_eq_formNNN 0xA#4 nnn (by rfl), decodeWord_of_fieldOp_A z (fieldOp_formNNN _ nnn), fieldNNN_formNNN]

end Sys2Proof.Proofs
end

section
/-! PROOFS. The display (44_display.md R210 to R216): clear-screen, and draw-sprite as one toggle at each place of a list
without repetitions (R215 law 1). -/

namespace Sys2Proof.Proofs

open Sys2Proof Sys2Proof.Machine

/-! ## Clear-screen (R210) -/

/-- Settles O33: a 0nE0 word is below 0x1000 with bottom byte E0, and the stored grid is the dark one. -/
theorem clearScreenTurnsEveryPixelOff : Obligations.ClearScreenTurnsEveryPixelOff := by
  intro s
  refine ⟨fun z => by cases z <;> rfl, fun n => ?_, s.writeFb Framebuffer.dark, rfl, Framebuffer.pixel_dark,
    changesOnly_writeFb s _⟩
  have hw : (BitVec.ofNat 16 (n.toNat * 0x100 + 0xE0)).toNat = n.toNat * 0x100 + 0xE0 := by
    rw [BitVec.toNat_ofNat]
    omega
  rw [(familyZeroDecode _ (by omega)).1, hw, if_pos (by omega)]

/-! ## Drawing a list of places -/

/-- Toggle each place (row, column) of the list in turn. -/
def plotAll (d : Drawing) (places : List (Fin 32 × Fin 64)) : Drawing :=
  places.foldl (fun d p => d.plot p.1 p.2) d

@[simp] theorem plotAll_nil (d : Drawing) : plotAll d [] = d := rfl

@[simp] theorem plotAll_cons (d : Drawing) (p : Fin 32 × Fin 64) (places : List (Fin 32 × Fin 64)) :
    plotAll d (p :: places) = plotAll (d.plot p.1 p.2) places := rfl

/-- One toggle inverts its place and keeps every other. -/
theorem pixel_plot (d : Drawing) (p q : Fin 32 × Fin 64) :
    (d.plot p.1 p.2).fb.pixel q.1 q.2 = if q = p then !d.fb.pixel q.1 q.2 else d.fb.pixel q.1 q.2 := by
  simp only [Drawing.plot, Framebuffer.pixel_toggle, ← Prod.ext_iff]
  by_cases hq : q = p
  · rw [hq]
  · rw [if_neg hq, if_neg hq]

/-- Places that differ are toggled once each: those in the list are inverted, every other is kept. -/
theorem pixel_plotAll {places : List (Fin 32 × Fin 64)} (hnodup : places.Nodup) (d : Drawing) (q : Fin 32 × Fin 64) :
    (plotAll d places).fb.pixel q.1 q.2 = if q ∈ places then !d.fb.pixel q.1 q.2 else d.fb.pixel q.1 q.2 := by
  induction places generalizing d with
  | nil => rfl
  | cons p places ih =>
    obtain ⟨hp, hrest⟩ := List.nodup_cons.mp hnodup
    rw [plotAll_cons, ih hrest, pixel_plot]
    by_cases hq : q = p
    · subst hq
      simp [hp]
    · simp [hq]

/-- Places that differ do not see each other's toggles: the collision is that one of them was on at the start. -/
theorem collision_plotAll {places : List (Fin 32 × Fin 64)} (hnodup : places.Nodup) (d : Drawing) :
    (plotAll d places).collision = true ↔ d.collision = true ∨ ∃ p ∈ places, d.fb.pixel p.1 p.2 = true := by
  induction places generalizing d with
  | nil => simp
  | cons p places ih =>
    obtain ⟨hp, hrest⟩ := List.nodup_cons.mp hnodup
    have hkept : ∀ q ∈ places, (d.plot p.1 p.2).fb.pixel q.1 q.2 = d.fb.pixel q.1 q.2 :=
      fun q hq => by rw [pixel_plot, if_neg (ne_of_mem_of_not_mem hq hp)]
    have hplot : (d.plot p.1 p.2).collision = true ↔ d.collision = true ∨ d.fb.pixel p.1 p.2 = true :=
      Bool.or_eq_true_iff
    rw [plotAll_cons, ih hrest, hplot, or_assoc, List.exists_mem_cons_iff]
    exact or_congr_right <| or_congr_right <| exists_congr fun q => and_congr_right fun hq => by rw [hkept q hq]

/-! ## The places of a sprite (R211 to R213) -/

/-- The places the set bits of one sprite row fall on. -/
def rowPlaces (b x0 : Byte) (py : Fin 32) : List (Fin 32 × Fin 64) :=
  ((List.range 8).filter (spriteBit b)).map fun c => (py, pixelColumn x0 c)

/-- The places the set bits of the `n` sprite rows at `I` fall on, in the order of drawing. -/
def spritePlaces (s : State) (x0 y0 : Byte) (n : Nat) : List (Fin 32 × Fin 64) :=
  (List.range n).flatMap fun r => rowPlaces (s.spriteByte r) x0 (pixelRow y0 r)

theorem mem_rowPlaces {b x0 : Byte} {py : Fin 32} {q : Fin 32 × Fin 64} :
    q ∈ rowPlaces b x0 py ↔ ∃ c < 8, spriteBit b c = true ∧ q = (py, pixelColumn x0 c) := by
  simp only [rowPlaces, List.mem_map, List.mem_filter, List.mem_range, and_assoc, eq_comm]

/-- The eight columns toggle the row's places. -/
theorem drawRow_eq_plotAll (b x0 : Byte) (py : Fin 32) (d : Drawing) :
    drawRow b x0 py d = plotAll d (rowPlaces b x0 py) := by
  rw [plotAll, rowPlaces, List.foldl_map, List.foldl_filter]
  rfl

/-- Drawing a sprite toggles the sprite's places. -/
theorem drawSprite_eq_plotAll (s : State) (x0 y0 : Byte) (n : Nat) :
    s.drawSprite x0 y0 n = plotAll { fb := s.fb, collision := false } (spritePlaces s x0 y0 n) := by
  rw [plotAll, spritePlaces, List.foldl_flatMap, State.drawSprite]
  simp only [drawRow_eq_plotAll, plotAll]

/-- The places of the model's list are those of the statement's description. -/
theorem mem_spritePlaces {s : State} {x y : Reg} {n : Nat} {py : Fin 32} {px : Fin 64} :
    (py, px) ∈ spritePlaces s (s.reg x) (s.reg y) n ↔ SpritePixel s x y n py px := by
  simp only [spritePlaces, List.mem_flatMap, List.mem_range, mem_rowPlaces, Prod.mk.injEq, Fin.ext_iff]
  constructor
  · rintro ⟨r, hr, c, hc, hbit, hpy, hpx⟩
    exact ⟨r, c, hr, hc, hbit, hpy, hpx⟩
  · rintro ⟨r, c, hr, hc, hbit, hpy, hpx⟩
    exact ⟨r, hr, c, hc, hbit, hpy, hpx⟩

/-- The eight columns of a row do not wrap onto each other: 8 ≤ 64 (R215 law 1). -/
theorem pixelColumn_inj {x0 : Byte} {c c' : Nat} (hc : c < 8) (hc' : c' < 8)
    (h : pixelColumn x0 c = pixelColumn x0 c') : c = c' := by
  have hval : (x0.toNat + c) % 64 = (x0.toNat + c') % 64 := congrArg Fin.val h
  omega

/-- Up to 32 rows do not wrap onto each other (R215 law 1). -/
theorem pixelRow_inj {y0 : Byte} {r r' : Nat} (hr : r < 32) (hr' : r' < 32)
    (h : pixelRow y0 r = pixelRow y0 r') : r = r' := by
  have hval : (y0.toNat + r) % 32 = (y0.toNat + r') % 32 := congrArg Fin.val h
  omega

theorem nodup_rowPlaces (b x0 : Byte) (py : Fin 32) : (rowPlaces b x0 py).Nodup := by
  refine List.Nodup.map_on (fun c hc c' hc' h => ?_) (List.nodup_range.filter _)
  have hlt : ∀ {k}, k ∈ (List.range 8).filter (spriteBit b) → k < 8 :=
    fun hk => List.mem_range.mp (List.mem_of_mem_filter hk)
  exact pixelColumn_inj (hlt hc) (hlt hc') (Prod.mk.inj h).2

/-- No two set bits of a sprite fall on one place, so nothing is toggled twice (R215 law 1). -/
theorem nodup_spritePlaces (s : State) (x0 y0 : Byte) {n : Nat} (hn : n ≤ 32) : (spritePlaces s x0 y0 n).Nodup := by
  refine List.nodup_flatMap.mpr ⟨fun r _ => nodup_rowPlaces _ _ _, List.nodup_range.pairwise_of_forall_ne ?_⟩
  intro r hr r' hr' hne q hq hq'
  obtain ⟨_, -, -, rfl⟩ := mem_rowPlaces.mp hq
  obtain ⟨_, -, -, heq⟩ := mem_rowPlaces.mp hq'
  have hlt : ∀ {k}, k ∈ List.range n → k < 32 := fun hk => (List.mem_range.mp hk).trans_le hn
  exact hne (pixelRow_inj (hlt hr) (hlt hr') (Prod.mk.inj heq).1)

/-! ## Draw-sprite (R214) -/

theorem decodeWord_of_fieldOp_D {w : Word} (z : ZeroDecode) (h : fieldOp w = 0xD) :
    decodeWord z w = .ok (.drw (fieldX w) (fieldY w) (fieldN w)) := by
  simp only [decodeWord, h]

/-- A drawn sprite inverts the sprite's pixels and keeps every other. -/
theorem pixel_drawSprite (s : State) (x y : Reg) {n : Nat} (hn : n ≤ 32) (py : Fin 32) (px : Fin 64) :
    (SpritePixel s x y n py px → (s.drawSprite (s.reg x) (s.reg y) n).fb.pixel py px = !s.pixel py px) ∧
    (¬ SpritePixel s x y n py px → (s.drawSprite (s.reg x) (s.reg y) n).fb.pixel py px = s.pixel py px) := by
  rw [drawSprite_eq_plotAll, pixel_plotAll (nodup_spritePlaces _ _ _ hn) _ (py, px), ← mem_spritePlaces]
  exact ⟨fun h => if_pos h, fun h => if_neg h⟩

/-- A drawn sprite collides exactly when one of its pixels was on. -/
theorem collision_drawSprite (s : State) (x y : Reg) {n : Nat} (hn : n ≤ 32) :
    (s.drawSprite (s.reg x) (s.reg y) n).collision = true ↔
      ∃ py px, SpritePixel s x y n py px ∧ s.pixel py px = true := by
  simp [drawSprite_eq_plotAll, collision_plotAll (nodup_spritePlaces _ _ _ hn), mem_spritePlaces, State.pixel]

/-- Settles O34: the word's digits are its fields, and the handler stores the drawing of at most 15 rows. -/
theorem drawTogglesExactlyTheSprite : Obligations.DrawTogglesExactlyTheSprite := by
  intro s x y n
  have hn : n.toNat ≤ 32 := by omega
  refine ⟨fun z => ?_, s.writeDrawing (s.drawSprite (s.reg x) (s.reg y) n.toNat), rfl, changesOnly_writeDrawing s _,
    fun py px => (pixel_drawSprite s x y hn py px).1, fun py px => (pixel_drawSprite s x y hn py px).2, ?_⟩
  · rw [ofNat_eq_formXYN 0xD#4 x y n.isLt (by rfl), decodeWord_of_fieldOp_D z (fieldOp_formXYN _ x y _), fieldX_formXYN,
      fieldY_formXYN, fieldN_formXYN, Nat.mod_eq_of_lt n.isLt]
  · have hflag : (s.writeDrawing (s.drawSprite (s.reg x) (s.reg y) n.toNat)).reg 0xF =
        flagByte (s.drawSprite (s.reg x) (s.reg y) n.toNat).collision := State.reg_writeReg_same _ flagReg _
    have hcollision := collision_drawSprite s x y hn
    rw [hflag]
    cases hc : (s.drawSprite (s.reg x) (s.reg y) n.toNat).collision with
    | true => exact .inl ⟨rfl, hcollision.mp hc⟩
    | false =>
      refine .inr ⟨rfl, fun py px hpixel => Bool.eq_false_iff.mpr fun hon => ?_⟩
      exact Bool.eq_false_iff.mp hc (hcollision.mpr ⟨py, px, hpixel, hon⟩)

end Sys2Proof.Proofs
end

section
/-! PROOFS. Words that select no handler (45_unlisted.md): the cycle of a running core that fetches one, under each setting
of `P_UNLISTED`. -/

namespace Sys2Proof.Proofs

open Sys2Proof Sys2Proof.Machine

/-- Under `nop` an unlisted word leaves the state it is run on as it is (R231). -/
theorem execUnlisted_of_nop {s : State} (w : Word) (h : s.params.unlisted = .nop) : execUnlisted w s = .next s := by
  simp only [execUnlisted, h]

/-- Under `refuse` an unlisted word has no meaning (R232). -/
theorem execUnlisted_of_refuse {s : State} (w : Word) (h : s.params.unlisted = .refuse) :
    execUnlisted w s = .refused (.unlisted w) := by
  simp only [execUnlisted, h]

/-- A word that does not decode goes to the no-op handler (R112). -/
theorem runWord_of_decodeWord_error {s : State} {w : Word} {why : UnlistedWord}
    (h : decodeWord s.params.zeroDecode w = .error why) : runWord w s = execUnlisted w s := by
  simp only [runWord, h]

/-- A running core that fetches an unlisted word hands it to the no-op handler after the advance (R111, R112). -/
theorem step_of_unlisted {s : State} {why : UnlistedWord} (hrun : s.status = .running)
    (hdec : decodeWord s.params.zeroDecode s.fetchWord = .error why) :
    step s = execUnlisted s.fetchWord s.advance := by
  have hword : decodeWord s.advance.params.zeroDecode s.fetchWord = .error why := hdec
  rw [step_of_running hrun, runWord_of_decodeWord_error hword]

/-- Settles O12: the handler keeps the state after the advance, which differs from the state before in `pc` alone. -/
theorem unlistedWordIsANop : Obligations.UnlistedWordIsANop := by
  intro s why hrun hnop hdec
  have hnop' : s.advance.params.unlisted = .nop := hnop
  rw [step_of_unlisted hrun hdec, execUnlisted_of_nop _ hnop', advance_eq]

/-- Settles O13: the advance keeps the parameters, and the handler refuses the fetched word by name. -/
theorem unlistedWordIsRefused : Obligations.UnlistedWordIsRefused := by
  intro s why hrun hrefuse hdec
  have hrefuse' : s.advance.params.unlisted = .refuse := hrefuse
  rw [step_of_unlisted hrun hdec, execUnlisted_of_refuse _ hrefuse']

end Sys2Proof.Proofs
end

section
/-! PROOFS. Decoding takes back what encoding wrote (30_encoding.md R81 to R85): the encoder's words have the fields they
were built from, and the decoder reads those fields. -/

namespace Sys2Proof.Proofs

open Sys2Proof Sys2Proof.Machine

/-- The decoder takes a well-formed instruction's word back to it (R84, R85). The height of DRW is the one operand that its
field could cut (R83). -/
theorem decodeWord_encode (z : ZeroDecode) {i : Instr} (hi : i.wf = true) : decodeWord z (encode i) = .ok i := by
  cases i with
  | cls | ret => cases z <;> rfl
  | jp | call | ldI | jpV0 => simp [encode, decodeWord]
  | seImm | sneImm | ldImm | addImm | rnd => simp [encode, decodeWord]
  | seReg | sneReg => simp [encode, decodeWord]
  | ldReg | orReg | andReg | xorReg | addReg | sub | subn => simp [encode, decodeWord, decodeEight]
  | drw x y n =>
    have hn : n % 16 = n := Nat.mod_eq_of_lt (Nat.lt_succ_of_le (of_decide_eq_true hi))
    simp [encode, decodeWord, hn]

/-- Settles O1: the two bytes of the encoded word join to it again, and the rest of the list is not read. -/
theorem encodingRoundTrip : Obligations.EncodingRoundTrip := by
  intro z i rest hi
  have hword : decodeWord z (encode i) = .ok i := decodeWord_encode z hi
  have hbytes : encodeBytes i ++ rest = highByte (encode i) :: lowByte (encode i) :: rest := rfl
  refine ⟨hword, ?_⟩
  simp only [hbytes, decodeBytes, joinBytes_high_low, hword]

/-- Settles O8: ten words, each put through the decoder. -/
theorem sampleWordsDecode : Obligations.SampleWordsDecode := by
  unfold Obligations.SampleWordsDecode
  decide

end Sys2Proof.Proofs
end

section
/-! PROOFS. The opcode table against the decoder (30_encoding.md R84, R85), and the words neither knows (45_unlisted.md
R230). A row's mask keeps one or two of a word's fields, and the decoder dispatches on those fields. -/

namespace Sys2Proof.Proofs

open Sys2Proof Sys2Proof.Machine

/-! ## What a row's mask keeps of a word (R85) -/

theorem toNat_opcode (w : Word) : (w.extractLsb' 12 4).toNat = w.toNat / 0x1000 := fieldOp_eq w

/-- A word is its opcode and its 12-bit immediate (R81). -/
theorem formNNN_fields (w : Word) : formNNN (w.extractLsb' 12 4) (fieldNNN w) = w := by
  apply BitVec.eq_of_toNat_eq
  rw [formNNN_toNat, fieldNNN_toNat, toNat_opcode]
  omega

/-- A word is its opcode, its register field and its bottom byte (R81). -/
theorem formXKK_fields (w : Word) : formXKK (w.extractLsb' 12 4) (fieldX w) (fieldKK w) = w := by
  apply BitVec.eq_of_toNat_eq
  rw [formXKK_toNat, fieldX_val, fieldKK_toNat, toNat_opcode]
  omega

/-- A word is its four nibbles (R81). -/
theorem formXYN_fields (w : Word) : formXYN (w.extractLsb' 12 4) (fieldX w) (fieldY w) (fieldN w) = w := by
  apply BitVec.eq_of_toNat_eq
  rw [formXYN_toNat, fieldX_val, fieldY_val, fieldN_eq, toNat_opcode]
  omega

theorem mask_F0FF : ∀ (i : Nat) (h : i < 16), (0xF0FF#16)[i] = (decide (i < 8) || decide (12 ≤ i)) := by decide

/-- The bits of a word in `XKK` format, field by field (R81). -/
theorem formXKK_getElem (op : BitVec 4) (x : Reg) (kk : Byte) (i : Nat) (hi : i < 16) :
    (formXKK op x kk)[i] =
      if h : i < 8 then kk[i] else if h' : i - 8 < 4 then (regField x)[i - 8] else op[i - 8 - 4] := by
  have hi' : i < 4 + 4 + 8 := hi
  show (op ++ regField x ++ kk)[i] = _
  simp only [BitVec.getElem_append]

/-- The top nibble and the bottom byte of a word in `XKK` format are its opcode and its immediate. -/
theorem formXKK_and_F0FF (op : BitVec 4) (x : Reg) (kk : Byte) : formXKK op x kk &&& 0xF0FF#16 = formXKK op 0 kk := by
  ext i hi
  rw [BitVec.getElem_and, mask_F0FF, formXKK_getElem, formXKK_getElem]
  by_cases h8 : i < 8
  · simp [h8]
  · by_cases h12 : i - 8 < 4
    · have hx : ¬ 12 ≤ i := by omega
      simp [h8, h12, hx, Laws.OpcodeRow.regField_zero]
    · have hop : 12 ≤ i := by omega
      simp [h8, h12, hop]

/-- The mask F000 keeps the top nibble. -/
theorem toNat_and_F000 (w : Word) : (w &&& 0xF000#16).toNat = fieldOp w * 0x1000 := by
  have h := Laws.OpcodeRow.formNNN_and (w.extractLsb' 12 4) (fieldNNN w)
  rw [formNNN_fields] at h
  rw [h, formNNN_toNat, toNat_opcode, fieldOp_eq]
  simp

/-- The mask F00F keeps the top and the bottom nibble. -/
theorem toNat_and_F00F (w : Word) : (w &&& 0xF00F#16).toNat = fieldOp w * 0x1000 + fieldN w := by
  have h := Laws.OpcodeRow.formXYN_and (w.extractLsb' 12 4) (fieldX w) (fieldY w) (fieldN w)
  rw [formXYN_fields] at h
  rw [h, formXYN_toNat, toNat_opcode, fieldOp_eq, fieldN_eq]
  simp

/-- The mask F0FF keeps the top nibble and the bottom byte. -/
theorem toNat_and_F0FF (w : Word) : (w &&& 0xF0FF#16).toNat = fieldOp w * 0x1000 + w.toNat % 256 := by
  have h := formXKK_and_F0FF (w.extractLsb' 12 4) (fieldX w) (fieldKK w)
  rw [formXKK_fields] at h
  rw [h, formXKK_toNat, toNat_opcode, fieldOp_eq, fieldKK_toNat]
  simp

/-! ## Family 0x0 under both settings (R86) -/

/-- The number that selects inside family 0x0. -/
def zeroKey (z : ZeroDecode) (w : Word) : Nat :=
  match z with
  | .lowByte => w.toNat % 256
  | .fullWord => w.toNat

theorem decodeZero_eq (z : ZeroDecode) (w : Word) : decodeZero z w =
    if zeroKey z w = 0xE0 then .ok .cls else if zeroKey z w = 0xEE then .ok .ret else .error .familyZero := by
  cases z with
  | lowByte => exact decodeZero_lowByte w
  | fullWord => exact decodeZero_fullWord w

/-! ## The words of a row (R85) -/

section Rows

variable {m : String} {p w : Word}

theorem holds_iff_toNat {mask : Word} : (⟨m, p, mask⟩ : OpcodeRow).holds w = true ↔ (w &&& mask).toNat = p.toNat := by
  rw [OpcodeRow.holds, beq_iff_eq, BitVec.toNat_inj]

/-- A row with mask F000 has the words of one family. -/
theorem holds_F000_iff {k : Nat} (hp : p.toNat = k * 0x1000) :
    (⟨m, p, 0xF000#16⟩ : OpcodeRow).holds w = true ↔ fieldOp w = k := by
  rw [holds_iff_toNat, toNat_and_F000, hp]
  omega

/-- A row with mask F00F has the words of one sub-operation of family 0x8. -/
theorem holds_F00F_iff {n : Nat} (hn : n < 16) (hp : p.toNat = 0x8000 + n) :
    (⟨m, p, 0xF00F#16⟩ : OpcodeRow).holds w = true ↔ fieldOp w = 8 ∧ fieldN w = n := by
  have hlt : fieldN w < 16 := by rw [fieldN_eq]; omega
  rw [holds_iff_toNat, toNat_and_F00F, hp]
  omega

/-- The rows of CLS and RET have the words of family 0x0 with one key. -/
theorem holds_zeroMask_iff {z : ZeroDecode} (hp : p.toNat < 256) :
    (⟨m, p, zeroMask z⟩ : OpcodeRow).holds w = true ↔ fieldOp w = 0 ∧ zeroKey z w = p.toNat := by
  cases z with
  | lowByte =>
    rw [holds_iff_toNat, zeroMask, toNat_and_F0FF, zeroKey]
    omega
  | fullWord =>
    have hall : w &&& 0xFFFF#16 = w := BitVec.and_allOnes
    rw [holds_iff_toNat, zeroMask, hall, fieldOp_eq, zeroKey]
    omega

end Rows

/-! ## The words of a row decode to its mnemonic -/

theorem decodeWord_of_fieldOp_C {w : Word} (z : ZeroDecode) (h : fieldOp w = 0xC) :
    decodeWord z w = .ok (.rnd (fieldX w) (fieldKK w)) := by
  simp only [decodeWord, h]

section Agreement

variable {z : ZeroDecode} {m : String} {p w : Word} {i : Instr}

/-- CLS and RET: the row's words are those of family 0x0 with the pattern as their key. -/
theorem decodeWord_of_holds_zeroMask (hp : p.toNat < 256) (h : (⟨m, p, zeroMask z⟩ : OpcodeRow).holds w = true) :
    decodeWord z w =
      if p.toNat = 0xE0 then .ok .cls else if p.toNat = 0xEE then .ok .ret else .error .familyZero := by
  obtain ⟨hop, hkey⟩ := (holds_zeroMask_iff hp).mp h
  rw [decodeWord_of_fieldOp_zero z hop, decodeZero_eq, hkey]

/-- A row that has a whole family: the family's answer is the row's instruction. -/
theorem decodeWord_of_holds_F000 {k : Nat} (hi : fieldOp w = k → decodeWord z w = .ok i) (hp : p.toNat = k * 0x1000)
    (h : (⟨m, p, 0xF000#16⟩ : OpcodeRow).holds w = true) : decodeWord z w = .ok i :=
  hi ((holds_F000_iff hp).mp h)

/-- A row of family 0x8: its words are those the encoder writes. -/
theorem decodeWord_of_holds_F00F {n : Nat} (hn : n < 16) (hp : p.toNat = 0x8000 + n) (hwf : i.wf = true)
    (hi : encode i = formXYN 0x8#4 (fieldX w) (fieldY w) n)
    (h : (⟨m, p, 0xF00F#16⟩ : OpcodeRow).holds w = true) : decodeWord z w = .ok i := by
  obtain ⟨hop, hsub⟩ := (holds_F00F_iff hn hp).mp h
  have hop' : w.extractLsb' 12 4 = 0x8#4 := BitVec.eq_of_toNat_eq hop
  have hw : encode i = w := by rw [hi, ← hop', ← hsub, formXYN_fields]
  rw [← decodeWord_encode z hwf, hw]

/-- Each row's words decode to an instruction with the row's mnemonic (R84, R85). -/
theorem decodeWord_of_holds : ∀ row ∈ opcodeTable z, row.holds w = true →
    ∃ i, decodeWord z w = .ok i ∧ i.mnemonic = row.mnemonic := by
  simp only [opcodeTable, List.forall_mem_append, List.forall_mem_cons]
  refine ⟨⟨⟨?cls, ?ret, ?jp, ?call, ?seImm, ?sneImm, ?seReg, ?ldImm, ?addImm, List.forall_mem_nil _⟩,
    ?ldReg, ?orReg, ?andReg, ?xorReg, ?addReg, ?sub, ?subn, List.forall_mem_nil _⟩,
    ?sneReg, ?ldI, ?jpV0, ?rnd, ?drw, List.forall_mem_nil _⟩
  case cls => exact fun h => ⟨.cls, decodeWord_of_holds_zeroMask (by decide) h, rfl⟩
  case ret => exact fun h => ⟨.ret, decodeWord_of_holds_zeroMask (by decide) h, rfl⟩
  case jp => exact fun h => ⟨_, decodeWord_of_holds_F000 (decodeWord_of_fieldOp_one z) rfl h, rfl⟩
  case call => exact fun h => ⟨_, decodeWord_of_holds_F000 (decodeWord_of_fieldOp_two z) rfl h, rfl⟩
  case seImm => exact fun h => ⟨_, decodeWord_of_holds_F000 (decodeWord_of_fieldOp_three z) rfl h, rfl⟩
  case sneImm => exact fun h => ⟨_, decodeWord_of_holds_F000 (decodeWord_of_fieldOp_four z) rfl h, rfl⟩
  case seReg => exact fun h => ⟨_, decodeWord_of_holds_F000 (decodeWord_of_fieldOp_five z) rfl h, rfl⟩
  case ldImm => exact fun h => ⟨_, decodeWord_of_holds_F000 (decodeWord_of_fieldOp_six z) rfl h, rfl⟩
  case addImm => exact fun h => ⟨_, decodeWord_of_holds_F000 (decodeWord_of_fieldOp_seven z) rfl h, rfl⟩
  case ldReg => exact fun h => ⟨.ldReg _ _, decodeWord_of_holds_F00F (n := 0) (by decide) rfl rfl rfl h, rfl⟩
  case orReg => exact fun h => ⟨.orReg _ _, decodeWord_of_holds_F00F (n := 1) (by decide) rfl rfl rfl h, rfl⟩
  case andReg => exact fun h => ⟨.andReg _ _, decodeWord_of_holds_F00F (n := 2) (by decide) rfl rfl rfl h, rfl⟩
  case xorReg => exact fun h => ⟨.xorReg _ _, decodeWord_of_holds_F00F (n := 3) (by decide) rfl rfl rfl h, rfl⟩
  case addReg => exact fun h => ⟨.addReg _ _, decodeWord_of_holds_F00F (n := 4) (by decide) rfl rfl rfl h, rfl⟩
  case sub => exact fun h => ⟨.sub _ _, decodeWord_of_holds_F00F (n := 5) (by decide) rfl rfl rfl h, rfl⟩
  case subn => exact fun h => ⟨.subn _ _, decodeWord_of_holds_F00F (n := 7) (by decide) rfl rfl rfl h, rfl⟩
  case sneReg => exact fun h => ⟨_, decodeWord_of_holds_F000 (decodeWord_of_fieldOp_nine z) rfl h, rfl⟩
  case ldI => exact fun h => ⟨_, decodeWord_of_holds_F000 (decodeWord_of_fieldOp_A z) rfl h, rfl⟩
  case jpV0 => exact fun h => ⟨_, decodeWord_of_holds_F000 (decodeWord_of_fieldOp_B z) rfl h, rfl⟩
  case rnd => exact fun h => ⟨_, decodeWord_of_holds_F000 (decodeWord_of_fieldOp_C z) rfl h, rfl⟩
  case drw => exact fun h => ⟨_, decodeWord_of_holds_F000 (decodeWord_of_fieldOp_D z) rfl h, rfl⟩

/-! ## What the decoder answers lies in its row -/

/-- The word lies in a row of the table that has the mnemonic `m`. -/
def LiesInRowOf (z : ZeroDecode) (w : Word) (m : String) : Prop :=
  ∃ row ∈ opcodeTable z, row.mnemonic = m ∧ row.holds w = true

theorem liesInRowOf_decodeZero (hop : fieldOp w = 0) (h : decodeZero z w = .ok i) : LiesInRowOf z w i.mnemonic := by
  rw [decodeZero_eq] at h
  split at h
  · cases h
    exact ⟨⟨"CLS", 0x00E0#16, zeroMask z⟩, by simp [opcodeTable], rfl, (holds_zeroMask_iff (by decide)).mpr ⟨hop, ‹_›⟩⟩
  · split at h
    · cases h
      exact ⟨⟨"RET", 0x00EE#16, zeroMask z⟩, by simp [opcodeTable], rfl,
        (holds_zeroMask_iff (by decide)).mpr ⟨hop, ‹_›⟩⟩
    · cases h

theorem liesInRowOf_eight {n : Nat} (hop : fieldOp w = 8) (hsub : fieldN w = n) (hn : n < 16)
    (hrow : (⟨m, BitVec.ofNat 16 (0x8000 + n), 0xF00F#16⟩ : OpcodeRow) ∈ opcodeTable z) : LiesInRowOf z w m :=
  ⟨_, hrow, rfl, (holds_F00F_iff hn (Nat.mod_eq_of_lt (by omega))).mpr ⟨hop, hsub⟩⟩

theorem liesInRowOf_family {k : Nat} (hop : fieldOp w = k)
    (hrow : (⟨m, BitVec.ofNat 16 (k * 0x1000), 0xF000#16⟩ : OpcodeRow) ∈ opcodeTable z) : LiesInRowOf z w m := by
  have hk : k < 16 := by rw [← hop, fieldOp_eq]; omega
  exact ⟨_, hrow, rfl, (holds_F000_iff (Nat.mod_eq_of_lt (by omega))).mpr hop⟩

theorem liesInRowOf_decodeEight (hop : fieldOp w = 8) (h : decodeEight w = .ok i) : LiesInRowOf z w i.mnemonic := by
  unfold decodeEight at h
  split at h
  case h_8 => cases h
  all_goals
    cases h
    exact liesInRowOf_eight hop ‹_› (by decide) (by simp [opcodeTable, Instr.mnemonic])

theorem liesInRowOf_decodeWord (h : decodeWord z w = .ok i) : LiesInRowOf z w i.mnemonic := by
  unfold decodeWord at h
  split at h
  case h_1 => exact liesInRowOf_decodeZero ‹_› h
  case h_9 => exact liesInRowOf_decodeEight ‹_› h
  case h_15 | h_16 => cases h
  all_goals
    cases h
    exact liesInRowOf_family ‹_› (by simp [opcodeTable, Instr.mnemonic])

/-- A height read from a word fits its field (R82, R83). -/
theorem decodeWord_ok_wf (h : decodeWord z w = .ok i) : i.wf = true := by
  unfold decodeWord at h
  split at h
  case h_1 =>
    rw [decodeZero_eq] at h
    split_ifs at h <;> cases h <;> rfl
  case h_9 =>
    unfold decodeEight at h
    split at h <;> cases h <;> rfl
  case h_15 | h_16 => cases h
  case h_14 =>
    cases h
    exact decide_eq_true (by rw [fieldN_eq]; omega)
  all_goals
    cases h
    rfl

/-- The 21 mnemonics differ. -/
theorem eq_of_mnemonic_eq {row row' : OpcodeRow} (h : row ∈ opcodeTable z) (h' : row' ∈ opcodeTable z)
    (heq : row.mnemonic = row'.mnemonic) : row = row' := by
  have hnodup : ((opcodeTable z).map OpcodeRow.mnemonic).Nodup := by cases z <;> decide
  exact List.inj_on_of_nodup_map hnodup h h' heq

end Agreement

/-- Settles O2: a row's words decode to its mnemonic, what the decoder answers lies in its row, and no two rows share a
mnemonic. -/
theorem decoderAgreesWithOpcodeTable : Obligations.DecoderAgreesWithOpcodeTable := by
  intro z w
  refine ⟨fun row hrow => ⟨decodeWord_of_holds row hrow, ?_⟩, ⟨?_, ?_⟩, fun i => decodeWord_ok_wf⟩
  · rintro ⟨i, hdec, hm⟩
    obtain ⟨row', hrow', hm', hholds⟩ := liesInRowOf_decodeWord hdec
    rwa [eq_of_mnemonic_eq hrow hrow' (hm.symm.trans hm'.symm)]
  · rintro ⟨i, hdec⟩
    obtain ⟨row, hrow, -, hholds⟩ := liesInRowOf_decodeWord hdec
    exact ⟨row, hrow, hholds⟩
  · rintro ⟨row, hrow, hholds⟩
    obtain ⟨i, hdec, -⟩ := decodeWord_of_holds row hrow hholds
    exact ⟨i, hdec⟩

/-! ## Unlisted words (R230) -/

theorem decodeZero_error_iff {z : ZeroDecode} {w : Word} :
    (∃ why, decodeZero z w = .error why) ↔ zeroKey z w ≠ 0xE0 ∧ zeroKey z w ≠ 0xEE := by
  rw [decodeZero_eq]
  split_ifs <;> simp_all

theorem decodeEight_error_iff {w : Word} :
    (∃ why, decodeEight w = .error why) ↔ fieldN w = 6 ∨ 8 ≤ fieldN w := by
  refine ⟨fun ⟨why, h⟩ => ?_, fun h => ⟨_, decodeEight_unlisted h⟩⟩
  unfold decodeEight at h
  split at h
  case h_8 =>
    simp only [imp_false] at *
    omega
  all_goals cases h

/-- The families that hold unlisted words, by their top nibble. -/
theorem decodeWord_error_iff {z : ZeroDecode} {w : Word} :
    (∃ why, decodeWord z w = .error why) ↔
      (fieldOp w = 0x0 ∧ zeroKey z w ≠ 0xE0 ∧ zeroKey z w ≠ 0xEE) ∨
      (fieldOp w = 0x8 ∧ (fieldN w = 6 ∨ 8 ≤ fieldN w)) ∨ fieldOp w = 0xE ∨ fieldOp w = 0xF := by
  have hop : fieldOp w < 16 := by rw [fieldOp_eq]; omega
  unfold decodeWord
  split
  case h_1 => simp [*, decodeZero_error_iff]
  case h_9 => simp [*, decodeEight_error_iff]
  case h_16 =>
    have hF : fieldOp w = 0xF := by simp only [imp_false] at *; omega
    simp [hF]
  all_goals simp [*]

/-- Settles O3: the fields are the digits of the word's number. -/
theorem unlistedWordsAreTheFourRanges : Obligations.UnlistedWordsAreTheFourRanges := by
  intro z w
  rw [decodeWord_error_iff, fieldOp_eq, fieldN_eq]
  have hfamily : w.toNat / 0x1000 = 0 ↔ w.toNat < 0x1000 := by omega
  rw [hfamily]
  cases z <;> rfl

end Sys2Proof.Proofs
end

section
/-! PROOFS. What every cycle and every run keeps: the bytes of memory (20_memory.md R53, R62), and the invariant that `pc`,
`I` and the return addresses lie below 0x1000 and memory is in canonical form (10_state.md R24, R26, R27). -/

namespace Sys2Proof.Proofs

open Sys2Proof Sys2Proof.Machine

/-! ## RET and CALL that complete (R131, R133) -/

theorem exec_ret_next {s t : State} (h : exec .ret s = .next t) :
    ∃ a u, s.popReturn = some (a, u) ∧ t = u.writePc a := by
  rcases exec_ret_cases s with ⟨a, u, hpop, h'⟩ | ⟨-, h'⟩
  · exact ⟨a, u, hpop, Host.Outcome.next.inj (h.symm.trans h')⟩
  · exact absurd (h'.symm.trans h) (raiseFault_ne_next _ _ _)

theorem exec_call_next {nnn : Addr} {s t : State} (h : exec (.call nnn) s = .next t) :
    ∃ u, s.pushReturn s.pc = some u ∧ t = u.writePc (zextAddr nnn) := by
  rcases exec_call_cases nnn s with ⟨u, hpush, h'⟩ | ⟨-, h'⟩
  · exact ⟨u, hpush, Host.Outcome.next.inj (h.symm.trans h')⟩
  · exact absurd (h'.symm.trans h) (raiseFault_ne_next _ _ _)

/-! ## Memory (R53, R62) -/

/-- No instruction writes memory (R53). -/
theorem exec_next_mem {i : Instr} {s t : State} (h : exec i s = .next t) : t.mem = s.mem := by
  cases i with
  | ret =>
    obtain ⟨a, u, hpop, rfl⟩ := exec_ret_next h
    obtain ⟨_, -, rfl⟩ := State.popReturn_eq_some.mp hpop
    rfl
  | call nnn =>
    obtain ⟨u, hpush, rfl⟩ := exec_call_next h
    obtain ⟨_, rfl⟩ := State.pushReturn_eq_some.mp hpush
    rfl
  | seImm | sneImm | seReg | sneReg => cases h; exact State.skipIf_mem s _
  | addReg | sub | subn => cases h; exact State.writeResultFlag_mem s _ _ _
  | _ => cases h; rfl

/-- A cycle keeps memory. -/
theorem step_next_mem {s t : State} (h : step s = .next t) : t.mem = s.mem := by
  obtain ⟨-, ⟨i, -, hexec⟩ | ⟨why, -, -, rfl⟩⟩ := step_next_cases h
  · have hkept : t.mem = s.advance.mem := exec_next_mem hexec
    exact hkept
  · rfl

/-- A run that ends in a fault has reached, by a run of complete cycles, a state whose cycle is that fault. -/
theorem cycles_fault_cases : ∀ {k : Nat} {s : State} {f : Fault}, cycles k s = .fault f →
    ∃ j u, cycles j s = .next u ∧ step u = .fault f
  | 0, s, f, h => by cases h
  | k + 1, s, f, h => by
    cases hs : step s with
    | next t =>
      simp only [cycles, hs] at h
      obtain ⟨j, u, hrun, hfault⟩ := cycles_fault_cases h
      exact ⟨j + 1, u, by simpa only [cycles, hs] using hrun, hfault⟩
    | fault r =>
      simp only [cycles, hs] at h
      cases h
      exact ⟨0, s, rfl, hs⟩
    | refused r => simp only [cycles, hs] at h; cases h

theorem cycles_next_mem {k : Nat} {s t : State} (h : cycles k s = .next t) : t.mem = s.mem :=
  cycles_keeps (P := fun u => u.mem = s.mem) (fun _ _ hu hstep => (step_next_mem hstep).trans hu) k rfl h

/-- Settles O43: complete cycles keep memory, and the final state of a fault differs from the state its cycle started in in
`pc` and the status alone. -/
theorem runsNeverWriteMemory : Obligations.RunsNeverWriteMemory := by
  refine ⟨fun k s t => cycles_next_mem, fun k s t f h hfinal => ?_⟩
  obtain ⟨j, u, hrun, hfault⟩ := cycles_fault_cases h
  obtain ⟨r, rfl⟩ := step_fault_final hfault hfinal
  have hkept : u.mem = s.mem := cycles_next_mem hrun
  exact hkept

/-! ## The invariant, operation by operation -/

section Operations

variable {s : State} (hs : s.Inv)
include hs

theorem inv_writeReg (x : Reg) (v : Byte) : (s.writeReg x v).Inv := ⟨hs.pc, hs.index, hs.stack, hs.mem⟩

theorem inv_writeResultFlag (x : Reg) (a b : Byte) : (s.writeResultFlag x a b).Inv := by
  constructor <;> simp [hs.pc, hs.index, hs.stack, hs.mem]

theorem inv_writePc (a : Word) : (s.writePc a).Inv := ⟨s.writePc_lt a, hs.index, hs.stack, hs.mem⟩

theorem inv_skipIf (c : Bool) : (s.skipIf c).Inv := by
  cases c with
  | true => exact inv_writePc hs _
  | false => exact hs

theorem inv_writeIndex (nnn : Addr) : (s.writeIndex (zextAddr nnn)).Inv :=
  ⟨hs.pc, zextAddr_lt nnn, hs.stack, hs.mem⟩

theorem inv_writeFb (g : Framebuffer) : (s.writeFb g).Inv := ⟨hs.pc, hs.index, hs.stack, hs.mem⟩

theorem inv_consumeDraw : s.consumeDraw.Inv := ⟨hs.pc, hs.index, hs.stack, hs.mem⟩

theorem inv_writeStatus (st : Status) : (s.writeStatus st).Inv := ⟨hs.pc, hs.index, hs.stack, hs.mem⟩

theorem inv_popReturn {t : State} {a : Word} (h : s.popReturn = some (a, t)) : t.Inv := by
  obtain ⟨_, -, rfl⟩ := State.popReturn_eq_some.mp h
  exact ⟨hs.pc, hs.index, hs.stack, hs.mem⟩

/-- The pushed address is a `pc`, so it lies below 0x1000 as that does (R27). -/
theorem inv_pushReturn {t : State} (h : s.pushReturn s.pc = some t) : t.Inv := by
  obtain ⟨hsp, rfl⟩ := State.pushReturn_eq_some.mp h
  refine ⟨hs.pc, hs.index, fun k => ?_, hs.mem⟩
  have hk := hs.stack k
  simp only [State.stackEntry, Vector.get_eq_getElem, Vector.getElem_set] at hk ⊢
  split
  · exact hs.pc
  · exact hk

theorem inv_memWrite (a : Word) (v : Byte) : (s.memWrite a v).Inv :=
  ⟨hs.pc, hs.index, hs.stack, State.memWrite_wf a v hs.mem⟩

/-! ## The invariant, instruction by instruction -/

theorem exec_keeps_inv {i : Instr} {t : State} (h : exec i s = .next t) : t.Inv := by
  cases i with
  | ret =>
    obtain ⟨a, u, hpop, rfl⟩ := exec_ret_next h
    exact inv_writePc (inv_popReturn hs hpop) a
  | call nnn =>
    obtain ⟨u, hpush, rfl⟩ := exec_call_next h
    exact inv_writePc (inv_pushReturn hs hpush) _
  | jp | jpV0 => cases h; exact inv_writePc hs _
  | seImm | sneImm | seReg | sneReg => cases h; exact inv_skipIf hs _
  | ldImm | addImm | ldReg | orReg | andReg | xorReg => cases h; exact inv_writeReg hs _ _
  | addReg | sub | subn => cases h; exact inv_writeResultFlag hs _ _ _
  | ldI nnn => cases h; exact inv_writeIndex hs nnn
  | rnd => cases h; exact inv_writeReg (inv_consumeDraw hs) _ _
  | cls => cases h; exact inv_writeFb hs _
  | drw => cases h; exact inv_writeReg (inv_writeFb hs _) _ _

end Operations

/-- Settles O44: the advance writes `pc`, every operation of the instructions keeps the invariant, and a fault records a
status on the state after the advance. -/
theorem stepKeepsTheInvariant : Obligations.StepKeepsTheInvariant := by
  rintro s t hs (hnext | ⟨f, hfault, hfinal⟩)
  · obtain ⟨-, ⟨i, -, hexec⟩ | ⟨why, -, -, rfl⟩⟩ := step_next_cases hnext
    · exact exec_keeps_inv (inv_writePc hs _) hexec
    · exact inv_writePc hs _
  · obtain ⟨r, rfl⟩ := step_fault_final hfault hfinal
    exact inv_writeStatus (inv_writePc hs _) _

/-! ## The invariant at construction (R34, R280, R281) -/

/-- Settles O45: each clause is evaluated on the reset state. -/
theorem resetMeetsTheInvariant : Obligations.ResetMeetsTheInvariant := by
  unfold Obligations.ResetMeetsTheInvariant
  constructor <;> decide

theorem inv_loadBytes : ∀ (bs : List Byte) (base : Nat) {s : State}, s.Inv → (State.loadBytes base bs s).Inv
  | [], _, _, hs => hs
  | b :: bs, base, _, hs => inv_loadBytes bs (base + 1) (inv_memWrite hs _ b)

/-- The reset values meet the invariant before the font and the ROM are loaded: drawn values of `I` and the stack are
address immediates. -/
theorem inv_initial (p : Params) (d : ResetDraws) : (State.initial p d).Inv := by
  unfold State.initial
  split
  · exact ⟨resetMeetsTheInvariant.pc, resetMeetsTheInvariant.index, resetMeetsTheInvariant.stack, rfl⟩
  · refine List.foldlRecOn (motive := State.Inv) d.mem _ ?_ fun s hs c _ => inv_memWrite hs c.1 c.2
    refine ⟨resetMeetsTheInvariant.pc, zextAddr_lt d.I, fun k => ?_, rfl⟩
    simpa [State.stackEntry, Vector.get_eq_getElem] using zextAddr_lt _

/-- A construction that is not refused loads the font and the ROM. -/
theorem construct_eq_ok {p : Params} {d : ResetDraws} {rom : List Byte} {s : State} :
    State.construct p d rom = .ok s ↔ rom.length ≤ maxRom ∧
      s = State.loadBytes loadBase rom (State.loadBytes fontBase fontTable (State.initial p d)) := by
  unfold State.construct
  split <;> simp_all [eq_comm]

/-- Settles O46: the reset values meet the invariant, and each byte the loader stores keeps it. -/
theorem constructedStatesMeetTheInvariant : Obligations.ConstructedStatesMeetTheInvariant := by
  intro p d rom s h
  obtain ⟨-, rfl⟩ := construct_eq_ok.mp h
  exact inv_loadBytes rom _ (inv_loadBytes fontTable _ (inv_initial p d))

end Sys2Proof.Proofs
end

section
/-! PROOFS. How cycles end (40_cycle.md R113, 60_exceptions.md R240 to R243), and three short runs: of a faulted core, of a
parked one (R257), and a call with its return (R139). -/

namespace Sys2Proof.Proofs

open Sys2Proof Sys2Proof.Machine

/-- Settles O38: every arm's frame is the instruction's row of the access matrix. -/
theorem instructionsWriteOnlyTheirFields : Obligations.InstructionsWriteOnlyTheirFields :=
  fun _ _ _ => exec_next_changesOnly

/-! ## The outcomes of a cycle (R113) -/

/-- A running core whose word decodes runs it after the advance (R112). -/
theorem step_of_decodeWord {s : State} {i : Instr} (hrun : s.status = .running)
    (hdec : decodeWord s.params.zeroDecode s.fetchWord = .ok i) : step s = exec i s.advance := by
  have hword : decodeWord s.advance.params.zeroDecode s.fetchWord = .ok i := hdec
  rw [step_of_running hrun, runWord_of_decodeWord hword]

/-- A fault raised after the advance leaves the state with `pc` and the status changed (R113, D14). -/
theorem advance_writeStatus (s : State) (st : Status) : s.advance.writeStatus st =
    { s with pc := BitVec.ofNat 16 ((s.pc.toNat + 2) % 0x1000), status := st } := by
  rw [advance_eq]
  rfl

/-- Settles O15: an instruction completes or is a CALL or a RET that faults, and `P_UNLISTED` decides for a word that is
none. -/
theorem cycleOutcomesAreTheFour : Obligations.CycleOutcomesAreTheFour := by
  intro s hrun
  simp only [← advance_writeStatus]
  cases hdec : decodeWord s.params.zeroDecode s.fetchWord with
  | ok i =>
    have hstep : step s = exec i s.advance := step_of_decodeWord hrun hdec
    rcases exec_cases i s.advance with ⟨t, h, hframe⟩ | ⟨rfl, hsp, h⟩ | ⟨nnn, rfl, hsp, h⟩
    · exact .inl ⟨t, hstep.trans h, hframe.status.trans hrun⟩
    · exact .inr (.inr (.inl ⟨rfl, hsp, hstep.trans h⟩))
    · exact .inr (.inl ⟨nnn, rfl, hsp, hstep.trans h⟩)
  | error why =>
    cases hpolicy : s.params.unlisted with
    | nop => exact .inl ⟨_, unlistedWordIsANop s why hrun hpolicy hdec, hrun⟩
    | refuse => exact .inr (.inr (.inr ⟨rfl, ⟨why, rfl⟩, unlistedWordIsRefused s why hrun hpolicy hdec⟩))

/-! ## The two faults (R240, R241) -/

theorem advance_pc_toNat (s : State) : s.advance.pc.toNat = (s.pc.toNat + 2) % 0x1000 := by
  rw [advance_eq, BitVec.toNat_ofNat]
  omega

/-- The address of a faulted instruction is recoverable: 2 below the advanced `pc`, mod 0x1000 (R240). -/
theorem faultAddress_advance {s : State} (hpc : s.pc.toNat < 0x1000) (st : Status) :
    (s.advance.writeStatus st).faultAddress = s.pc := by
  apply BitVec.eq_of_toNat_eq
  rw [State.faultAddress, State.writeStatus_pc, maskAddr_toNat, BitVec.toNat_sub, advance_pc_toNat]
  have htwo : (2 : Word).toNat = 2 := rfl
  omega

theorem step_of_faulted {s : State} {r : StackFault} (h : s.status = .faulted r) : step s = .fault (.halted r) := by
  simp only [step, h]

/-- StackOverflow is the outcome of CALL on a full stack alone, and carries the state after the advance. -/
theorem step_eq_stackOverflow_iff {s t : State} (hrun : s.status = .running) : step s = .fault (.stackOverflow t) ↔
    (s.sp.val = 16 ∧ ∃ nnn, decodeWord s.params.zeroDecode s.fetchWord = .ok (.call nnn)) ∧
      t = s.advance.writeStatus (.faulted .stackOverflow) := by
  constructor
  · intro h
    rcases cycleOutcomesAreTheFour s hrun with ⟨u, hu, -⟩ | ⟨nnn, hdec, hsp, hu⟩ | ⟨-, -, hu⟩ | ⟨-, -, hu⟩
    · cases hu.symm.trans h
    · cases hu.symm.trans h
      exact ⟨⟨hsp, nnn, hdec⟩, (advance_writeStatus s _).symm⟩
    · cases hu.symm.trans h
    · cases hu.symm.trans h
  · rintro ⟨⟨hsp, nnn, hdec⟩, rfl⟩
    exact (step_of_decodeWord hrun hdec).trans (exec_call_of_full (s := s.advance) nnn hsp)

/-- StackUnderflow is the outcome of RET on an empty stack alone, and carries the state after the advance. -/
theorem step_eq_stackUnderflow_iff {s t : State} (hrun : s.status = .running) : step s = .fault (.stackUnderflow t) ↔
    (s.sp.val = 0 ∧ decodeWord s.params.zeroDecode s.fetchWord = .ok .ret) ∧
      t = s.advance.writeStatus (.faulted .stackUnderflow) := by
  constructor
  · intro h
    rcases cycleOutcomesAreTheFour s hrun with ⟨u, hu, -⟩ | ⟨-, -, -, hu⟩ | ⟨hdec, hsp, hu⟩ | ⟨-, -, hu⟩
    · cases hu.symm.trans h
    · cases hu.symm.trans h
    · cases hu.symm.trans h
      exact ⟨⟨hsp, hdec⟩, (advance_writeStatus s _).symm⟩
    · cases hu.symm.trans h
  · rintro ⟨⟨hsp, hdec⟩, rfl⟩
    exact (step_of_decodeWord hrun hdec).trans (exec_ret_of_empty (s := s.advance) hsp)

/-- Settles O36: the fault names its one cause, and its state is the state after the advance with the fault recorded. -/
theorem callOnAFullStackOverflows : Obligations.CallOnAFullStackOverflows := by
  intro s hrun hpc
  simp only [step_eq_stackOverflow_iff hrun, exists_and_left, exists_eq, and_true]
  refine ⟨trivial, ?_⟩
  rintro t ⟨-, rfl⟩
  exact ⟨advance_writeStatus s _, rfl, faultAddress_advance hpc _, step_of_faulted rfl⟩

/-- Settles O37: as O36, with RET on an empty stack. -/
theorem returnOnAnEmptyStackUnderflows : Obligations.ReturnOnAnEmptyStackUnderflows := by
  intro s hrun hpc
  simp only [step_eq_stackUnderflow_iff hrun, exists_and_left, exists_eq, and_true]
  refine ⟨trivial, ?_⟩
  rintro t ⟨-, rfl⟩
  exact ⟨advance_writeStatus s _, rfl, faultAddress_advance hpc _, step_of_faulted rfl⟩

/-! ## Runs -/

theorem cycles_succ_of_next {s t : State} (k : Nat) (h : step s = .next t) : cycles (k + 1) s = cycles k t := by
  simp only [cycles, h]

/-- Settles O14: the first cycle already ends the run. -/
theorem faultedCoreTakesNoCycle : Obligations.FaultedCoreTakesNoCycle := by
  intro s r k h
  simp only [cycles, step_of_faulted h]

/-- A parked core's cycle writes to `pc` the address it was advanced from (R257). -/
theorem step_of_parked {s : State} (h : s.parked) : step s = .next s := by
  obtain ⟨hrun, nnn, hword, hpc⟩ := h
  have hdec : decodeWord s.params.zeroDecode s.fetchWord = .ok (.jp nnn) := hword ▸ decodeWord_encode _ rfl
  have hback : s.advance.writePc (zextAddr nnn) = s := by
    unfold State.advance State.writePc
    rw [maskAddr_zextAddr, hpc]
  rw [step_of_decodeWord hrun hdec]
  exact congrArg Host.Outcome.next hback

/-- Settles O47: by induction on the number of cycles. -/
theorem parkedStatesStay : Obligations.ParkedStatesStay := by
  intro s k h
  induction k with
  | zero => rfl
  | succ k ih => rw [cycles_succ_of_next k (step_of_parked h), ih]

/-! ## A call and its return (R139) -/

/-- Two bytes at `pc` make the fetched word (R54). -/
theorem fetchWord_of_memRead {s : State} {hi lo : Byte} (hhi : s.memRead s.pc = hi) (hlo : s.memRead (s.pc + 1) = lo) :
    s.fetchWord = joinBytes hi lo := by
  rw [State.fetchWord, hhi, hlo]

/-- A cycle that fetches RET with a live entry resumes at the entry below `sp` and keeps the registers. -/
theorem step_ret_of_live {s : State} {k : Fin 16} (hrun : s.status = .running) (hk : s.sp.val = k.val + 1)
    (hdec : decodeWord s.params.zeroDecode s.fetchWord = .ok .ret) : ∃ t, step s = .next t ∧ t.sp.val = k.val ∧
      t.pc.toNat = (s.stackEntry k).toNat % 0x1000 ∧ ∀ r, t.reg r = s.reg r := by
  have hlive : 0 < s.advance.sp.val := by rw [State.advance_sp]; omega
  obtain ⟨t, hexec, hcount, hpc, -⟩ := exec_ret_of_live hlive
  rw [State.advance_sp, hk] at hcount
  exact ⟨t, (step_of_decodeWord hrun hdec).trans hexec, hcount, hpc k hk.symm,
    fun r => (exec_next_changesOnly hexec).regs r (List.not_mem_nil)⟩

/-- Settles O48: the RET pops the entry the CALL pushed, which is the CALL's advanced `pc`. -/
theorem callThenReturnResumes : Obligations.CallThenReturnResumes := by
  intro s nnn hrun hsp hword hhi hlo
  obtain ⟨hcallWord, -⟩ := callPushesTheFollowingAddress s nnn
  obtain ⟨t, hexec, hpc, hcount, hentries⟩ := exec_call_of_room (s := s.advance) nnn hsp
  have hframe : ChangesOnly _ s.advance t := exec_next_changesOnly hexec
  have hcall : step s = .next t := (step_of_decodeWord hrun (by rw [hword, hcallWord])).trans hexec
  have hpcWord : t.pc = nnn.setWidth 16 := BitVec.eq_of_toNat_eq (hpc.trans (zextAddr_toNat nnn).symm)
  have hfetch : t.fetchWord = joinBytes 0x00#8 0xEE#8 :=
    fetchWord_of_memRead (by rw [hframe.memory, hpcWord]; exact hhi) (by rw [hframe.memory, hpcWord]; exact hlo)
  have hretWord : decodeWord t.params.zeroDecode t.fetchWord = .ok .ret := by
    rw [hfetch]
    exact (returnPopsTheProgramCounter t).1 _
  obtain ⟨u, hret, hcount', hresume, hregs⟩ :=
    step_ret_of_live (k := ⟨s.sp.val, hsp⟩) (hframe.status.trans hrun) hcount hretWord
  have hentry : t.stackEntry ⟨s.sp.val, hsp⟩ = s.advance.pc := (hentries _).trans (if_pos rfl)
  refine ⟨u, ?_, ?_, Fin.ext hcount', fun r => (hregs r).trans (hframe.regs r List.not_mem_nil)⟩
  · rw [cycles_succ_of_next 1 hcall, cycles_succ_of_next 0 hret, cycles]
  · rw [hresume, hentry, advance_pc_toNat, Nat.mod_mod]

end Sys2Proof.Proofs
end

section
/-! PROOFS. What has no influence on an instruction (10_state.md R35, R29, R30, 40_cycle.md R117). One lemma: a change to
registers, timers, keypad or draw counter that an instruction's row of the access matrix does not name commutes with the
instruction. Its instances are the register it does not read, the counter, and the moves of the host. -/

namespace Sys2Proof.Proofs

open Sys2Proof Sys2Proof.Machine

/-! ## Changes to fields that an instruction may not see -/

/-- A change to the registers, to the fields of the host, and to the draw counter. -/
structure Disturbance where
  V      : Vector Byte 16 → Vector Byte 16 := id
  delay  : Byte → Byte := id
  sound  : Byte → Byte := id
  keypad : Vector Bool 16 → Vector Bool 16 := id
  draws  : Nat → Nat := id

/-- The change made to a state. -/
def Disturbance.apply (d : Disturbance) (s : State) : State :=
  { s with V := d.V s.V, delay := d.delay s.delay, sound := d.sound s.sound, keypad := d.keypad s.keypad,
           draws := d.draws s.draws }

/-- The change leaves alone what an instruction reads, and reaches around what it writes (R35). -/
structure Disturbance.Spares (d : Disturbance) (i : Instr) : Prop where
  reads  : ∀ x ∈ i.readRegs, ∀ s, (d.apply s).reg x = s.reg x
  writes : ∀ x ∈ i.writes.regs, ∀ s v, (d.apply s).writeReg x v = d.apply (s.writeReg x v)
  draws  : i.writes.draws = true → d.draws = id

section Operations

variable (d : Disturbance) (s : State)

theorem apply_skipIf (c : Bool) : (d.apply s).skipIf c = d.apply (s.skipIf c) := by cases c <;> rfl

theorem apply_popReturn : (d.apply s).popReturn = s.popReturn.map (Prod.map id d.apply) := by
  unfold State.popReturn
  by_cases h : 0 < s.sp.val
  · have h' : 0 < (d.apply s).sp.val := h
    rw [dif_pos h, dif_pos h']
    rfl
  · have h' : ¬ 0 < (d.apply s).sp.val := h
    rw [dif_neg h, dif_neg h']
    rfl

theorem apply_pushReturn (a : Word) : (d.apply s).pushReturn a = (s.pushReturn a).map d.apply := by
  unfold State.pushReturn
  by_cases h : s.sp.val < 16
  · have h' : (d.apply s).sp.val < 16 := h
    rw [dif_pos h, dif_pos h']
    rfl
  · have h' : ¬ (d.apply s).sp.val < 16 := h
    rw [dif_neg h, dif_neg h']
    rfl

variable {d}

theorem apply_writeResultFlag {x : Reg} (a b : Byte)
    (hx : ∀ r ∈ [x, flagReg], ∀ s v, (d.apply s).writeReg r v = d.apply (s.writeReg r v)) :
    (d.apply s).writeResultFlag x a b = d.apply (s.writeResultFlag x a b) := by
  have hwrite : ∀ s v, (d.apply s).writeReg x v = d.apply (s.writeReg x v) := hx x (by simp)
  have hflag : ∀ s v, (d.apply s).writeReg flagReg v = d.apply (s.writeReg flagReg v) := hx flagReg (by simp)
  have hparams : (d.apply s).params = s.params := rfl
  unfold State.writeResultFlag
  rw [hparams]
  split
  · rw [hwrite, hflag]
  · rw [hflag, hwrite]

end Operations

/-! ## An instruction does not see what its row does not name -/

theorem exec_apply {d : Disturbance} {i : Instr} (h : d.Spares i) (s : State) :
    exec i (d.apply s) = mapResult d.apply (exec i s) := by
  obtain ⟨hread, hwrite, hdraw⟩ := h
  cases i with
  | cls | jp | ldI => rfl
  | ret =>
    simp only [exec, execRet, apply_popReturn]
    cases s.popReturn <;> rfl
  | call nnn =>
    have hpc : (d.apply s).pc = s.pc := rfl
    simp only [exec, execCall, apply_pushReturn, hpc]
    cases s.pushReturn s.pc <;> rfl
  | jpV0 nnn =>
    simp only [exec, execJpV0, hread offsetReg (List.mem_singleton_self _), mapResult]
    rfl
  | seImm | sneImm | seReg | sneReg =>
    simp only [Instr.readRegs, List.forall_mem_cons] at hread
    simp only [exec, execSeImm, execSneImm, execSeReg, execSneReg, hread, apply_skipIf, mapResult]
  | ldImm | addImm | ldReg | orReg | andReg | xorReg =>
    simp only [Instr.readRegs, Instr.writes, List.forall_mem_cons] at hread hwrite
    simp only [exec, execLdImm, execAddImm, execLdReg, execOrReg, execAndReg, execXorReg, hread, hwrite, mapResult]
  | addReg | sub | subn =>
    simp only [Instr.readRegs, List.forall_mem_cons] at hread
    simp only [exec, execAddReg, execSub, execSubn, hread, apply_writeResultFlag _ _ _ hwrite, mapResult]
  | rnd x kk =>
    simp only [Instr.writes, List.forall_mem_cons] at hwrite
    have hid : d.draws = id := hdraw rfl
    have hbyte : (d.apply s).draw = s.draw := by simp only [State.draw, Disturbance.apply, hid, id]
    have hconsume : (d.apply s).consumeDraw = d.apply s.consumeDraw := by
      simp only [State.consumeDraw, Disturbance.apply, hid, id]
    simp only [exec, execRnd, State.randomAnd, hbyte, hconsume, hwrite, mapResult]
  | drw x y n =>
    simp only [Instr.readRegs, Instr.writes, List.forall_mem_cons] at hread hwrite
    have hdrawn : ∀ a b, (d.apply s).drawSprite a b n = s.drawSprite a b n := fun _ _ => rfl
    have hfb : ∀ g, (d.apply s).writeFb g = d.apply (s.writeFb g) := fun _ => rfl
    simp only [exec, execDrw, State.writeDrawing, hdrawn, hfb, hread, hwrite, mapResult]

/-! ## A register that an instruction does not read (R22, R23, R35) -/

/-- Writes to different registers commute (R21). -/
theorem writeReg_comm (s : State) {x r : Reg} (h : x ≠ r) (a b : Byte) :
    (s.writeReg x a).writeReg r b = (s.writeReg r b).writeReg x a := by
  have hval : x.val ≠ r.val := fun heq => h (Fin.ext heq)
  simp only [State.writeReg, Vector.set_comm a b hval]

/-- The later of two writes to a register remains (R10). -/
@[simp] theorem writeReg_writeReg (s : State) (x : Reg) (a b : Byte) :
    (s.writeReg x a).writeReg x b = s.writeReg x b := by
  simp only [State.writeReg, Vector.set_set]

/-- A write of a result and a flag covers what VF held before (R168). -/
theorem writeResultFlag_writeReg_flag (s : State) {x : Reg} (hx : x ≠ flagReg) (v a b : Byte) :
    (s.writeReg flagReg v).writeResultFlag x a b = s.writeResultFlag x a b := by
  unfold State.writeResultFlag
  rw [State.writeReg_params]
  split
  · rw [writeReg_comm _ hx.symm, writeReg_writeReg]
  · rw [writeReg_writeReg]

/-- A finished drawing covers what VF held before (R214). -/
theorem writeDrawing_writeReg_flag (s : State) (v : Byte) (d : Drawing) :
    (s.writeReg flagReg v).writeDrawing d = s.writeDrawing d :=
  writeReg_writeReg (s.writeFb d.fb) flagReg v _

/-- The write of one register, as a change. -/
def writeDisturbance (r : Reg) (v : Byte) : Disturbance := { V := fun V => V.set r.val v r.isLt }

theorem writeDisturbance_spares {i : Instr} {r : Reg} (v : Byte) (hread : r ∉ i.readRegs) (hwrite : r ∉ i.writes.regs) :
    (writeDisturbance r v).Spares i where
  reads _ hx s := s.reg_writeReg_ne v (ne_of_mem_of_not_mem hx hread)
  writes _ hx s w := writeReg_comm s (ne_of_mem_of_not_mem hx hwrite).symm v w
  draws _ := rfl

/-- An instruction that writes a register it does not read covers what the register held before. -/
theorem exec_writeReg_covered {i : Instr} {r : Reg} (hread : r ∉ i.readRegs) (hwrite : r ∈ i.writes.regs) (s : State)
    (v : Byte) : exec i (s.writeReg r v) = exec i s := by
  have hkept : ∀ x ∈ i.readRegs, (s.writeReg r v).reg x = s.reg x :=
    fun x hx => s.reg_writeReg_ne v (ne_of_mem_of_not_mem hx hread)
  cases i with
  | cls | ret | jp | call | seImm | sneImm | seReg | sneReg | ldI | jpV0 => cases hwrite
  | addImm | orReg | andReg | xorReg =>
    obtain rfl := List.mem_singleton.mp hwrite
    exact absurd List.mem_cons_self hread
  | ldImm x kk =>
    obtain rfl := List.mem_singleton.mp hwrite
    simp only [exec, execLdImm, writeReg_writeReg]
  | rnd x kk =>
    obtain rfl := List.mem_singleton.mp hwrite
    exact congrArg Host.Outcome.next (writeReg_writeReg s.consumeDraw r v _)
  | ldReg x y =>
    obtain rfl := List.mem_singleton.mp hwrite
    simp only [exec, execLdReg, hkept y (List.mem_singleton_self y), writeReg_writeReg]
  | addReg x y | sub x y | subn x y =>
    have hx : r ≠ x := List.ne_of_not_mem_cons hread
    obtain rfl : r = flagReg := by simpa [Instr.writes, hx] using hwrite
    simp only [Instr.readRegs, List.forall_mem_cons] at hkept
    simp only [exec, execAddReg, execSub, execSubn, hkept, writeResultFlag_writeReg_flag s hx.symm]
  | drw x y n =>
    obtain rfl := List.mem_singleton.mp hwrite
    have hdrawn : ∀ a b, (s.writeReg flagReg v).drawSprite a b n = s.drawSprite a b n := fun _ _ => rfl
    simp only [Instr.readRegs, List.forall_mem_cons] at hkept
    simp only [exec, execDrw, hkept, hdrawn, writeDrawing_writeReg_flag]

/-- Settles O39: the write of a register outside the instruction's row is a change it does not see, and inside the row it is
covered. -/
theorem unreadRegistersHaveNoInfluence : Obligations.UnreadRegistersHaveNoInfluence := fun _ s _ v hread =>
  ⟨fun hwrite => exec_apply (writeDisturbance_spares v hread hwrite) s,
    fun hwrite => exec_writeReg_covered hread hwrite s v⟩

/-! ## The draw counter (R117) and the moves of the host (R29, R30, R251, R252) -/

/-- Settles O40: RND's row alone names the counter. -/
theorem onlyRndReadsTheDraw : Obligations.OnlyRndReadsTheDraw := by
  intro i s k hi
  have hdraws : i.writes.draws = false := by
    cases i with
    | rnd x kk => exact absurd rfl (hi x kk)
    | _ => rfl
  have hspares : Disturbance.Spares { draws := fun _ => k } i :=
    ⟨fun _ _ _ => rfl, fun _ _ _ _ => rfl, fun h => absurd (hdraws.symm.trans h) Bool.false_ne_true⟩
  exact exec_apply hspares s

/-- The host's move, as a change. -/
def hostDisturbance : HostMove → Disturbance
  | .setDelay v => { delay := fun _ => v }
  | .setSound v => { sound := fun _ => v }
  | .setKeypad k => { keypad := fun _ => k }

theorem hostDisturbance_apply (m : HostMove) (s : State) : (hostDisturbance m).apply s = s.hostMove m := by
  cases m <;> rfl

theorem hostDisturbance_spares (m : HostMove) (i : Instr) : (hostDisturbance m).Spares i := by
  cases m <;> exact ⟨fun _ _ _ => rfl, fun _ _ _ _ => rfl, fun _ => rfl⟩

theorem exec_hostMove (m : HostMove) (i : Instr) (s : State) :
    exec i (s.hostMove m) = mapResult (fun t => t.hostMove m) (exec i s) := by
  have h := exec_apply (hostDisturbance_spares m i) s
  have hfun : (hostDisturbance m).apply = fun t => t.hostMove m := funext (hostDisturbance_apply m)
  rwa [hfun] at h

theorem execUnlisted_hostMove (m : HostMove) (w : Word) (s : State) :
    execUnlisted w (s.hostMove m) = mapResult (fun t => t.hostMove m) (execUnlisted w s) := by
  have hparams : (s.hostMove m).params = s.params := by cases m <;> rfl
  unfold execUnlisted
  rw [hparams]
  split <;> rfl

/-- Settles O41: the move changes neither what is fetched nor how it decodes, and it is a change no instruction sees. -/
theorem hostMovesCommuteWithTheCycle : Obligations.HostMovesCommuteWithTheCycle := by
  intro m s
  have hstatus : (s.hostMove m).status = s.status := by cases m <;> rfl
  have hparams : (s.hostMove m).params = s.params := by cases m <;> rfl
  have hadvance : (s.hostMove m).advance = s.advance.hostMove m := by cases m <;> rfl
  have hfetch : (s.hostMove m).fetchWord = s.fetchWord := by cases m <;> rfl
  cases hs : s.status with
  | faulted r => rw [step_of_faulted hs, step_of_faulted (hstatus.trans hs)]; rfl
  | running =>
    cases hdec : decodeWord s.params.zeroDecode s.fetchWord with
    | ok i =>
      rw [step_of_decodeWord hs hdec, step_of_decodeWord (hstatus.trans hs) (by rw [hparams, hfetch, hdec]), hadvance,
        exec_hostMove]
    | error why =>
      rw [step_of_unlisted hs hdec, step_of_unlisted (hstatus.trans hs) (by rw [hparams, hfetch, hdec]), hadvance, hfetch,
        execUnlisted_hostMove]

end Sys2Proof.Proofs
end

section
/-! PROOFS. Drawing a sprite twice (44_display.md R215 law 2), and the framebuffer as the host reads it (10_state.md R28,
60_exceptions.md R250). -/

namespace Sys2Proof.Proofs

open Sys2Proof Sys2Proof.Machine

/-! ## A sprite drawn twice (R215) -/

/-- The places of a sprite are fixed by `I`, memory and the two coordinates (R211 to R213). -/
theorem spritePixel_congr {s t : State} {x y : Reg} (hI : t.I = s.I) (hmem : ∀ a, t.memRead a = s.memRead a)
    (hx : t.reg x = s.reg x) (hy : t.reg y = s.reg y) (n : Nat) (py : Fin 32) (px : Fin 64) :
    SpritePixel t x y n py px ↔ SpritePixel s x y n py px := by
  simp only [SpritePixel, hI, hmem, hx, hy]

/-- Settles O35: the second draw toggles the same places, so each is toggled twice or never; it collides where the first
turned a pixel on. -/
theorem doubleDrawRestoresTheScreen : Obligations.DoubleDrawRestoresTheScreen := by
  intro s x y n
  obtain ⟨-, t, hdraw, hframe, htoggled, hkept, -⟩ := drawTogglesExactlyTheSprite s x y n
  have hother : ∀ r : Reg, r ≠ 0xF → t.reg r = s.reg r := fun r hr => hframe.regs r (by simpa using hr)
  refine ⟨t, hdraw, hother x, hother y, fun hx hy => ?_⟩
  obtain ⟨-, u, hdraw', -, htoggled', hkept', hflag⟩ := drawTogglesExactlyTheSprite t x y n
  simp only [spritePixel_congr (hframe.index rfl) hframe.memory hx hy] at htoggled' hkept' hflag
  refine ⟨u, hdraw', fun py px => ?_, ?_⟩
  · by_cases h : SpritePixel s x y n.toNat py px
    · rw [htoggled' py px h, htoggled py px h, Bool.not_not]
    · rw [hkept' py px h, hkept py px h]
  · have hinvert : ∀ py px, SpritePixel s x y n.toNat py px → ∀ b, t.pixel py px = b ↔ s.pixel py px = !b :=
      fun py px h b => by rw [htoggled py px h, Bool.not_eq_eq_eq_not]
    rcases hflag with ⟨hvf, py, px, h, hon⟩ | ⟨hvf, hoff⟩
    · exact .inl ⟨hvf, py, px, h, (hinvert py px h true).mp hon⟩
    · exact .inr ⟨hvf, fun py px h => (hinvert py px h false).mp (hoff py px h)⟩

/-! ## The read port (R28, R250) -/

/-- The host reads the rows one after the other. -/
theorem fbRead_eq_flatten (s : State) : s.fbRead = s.fb.flatten.toList := by
  have hrows : s.fb.flatten.toList = (s.fb.toList.map Vector.toList).flatten := by
    simp only [Vector.flatten, Vector.toList, Array.toList_flatten, Array.toList_map, List.map_map]
    rfl
  rw [hrows, State.fbRead, List.flatMap_def]

/-- Settles O56: entry `y*64 + x` of the rows in turn is column `x` of row `y`. -/
theorem framebufferReadPortIsRowMajor : Obligations.FramebufferReadPortIsRowMajor := by
  intro s
  refine ⟨by rw [fbRead_eq_flatten, Vector.length_toList], fun y x => ?_⟩
  have hi : y.val * 64 + x.val < 32 * 64 := by omega
  have hrow : (y.val * 64 + x.val) / 64 = y.val := by omega
  have hcol : (y.val * 64 + x.val) % 64 = x.val := by omega
  rw [fbRead_eq_flatten, Vector.getElem?_toList, Vector.getElem?_eq_getElem hi, Vector.getElem_flatten]
  simp only [hrow, hcol]
  rfl

end Sys2Proof.Proofs
end

section
/-! PROOFS. Registers as cells (10_state.md R21), RND (43_index_random.md R201), and memories in canonical form
(20_memory.md section 1). -/

namespace Sys2Proof.Proofs

open Sys2Proof Sys2Proof.Machine

/-- Settles O49: a written register reads back and the other fifteen are kept. -/
theorem registersAreSixteenIndependentCells : Obligations.RegistersAreSixteenIndependentCells :=
  fun s x r v => s.reg_writeReg x r v

/-- Settles O32: the word's digits are its fields, and the handler consumes the draw and writes it masked. -/
theorem randomByteIsMasked : Obligations.RandomByteIsMasked := by
  intro s x kk
  have hreg : (s.consumeDraw.randomAnd s.draw x kk).reg x = Config.randomByte s.draws &&& kk :=
    State.reg_writeReg_same _ x _
  refine ⟨fun z => ?_, s.consumeDraw.randomAnd s.draw x kk, rfl, hreg, ?_, rfl, changesOnly_randomAnd s _ x kk⟩
  · rw [ofNat_eq_formXKK 0xC#4 x kk (by rfl), decodeWord_of_fieldOp_C z (fieldOp_formXKK _ x kk), fieldX_formXKK,
      fieldKK_formXKK]
  · rw [hreg, BitVec.and_assoc, BitVec.and_not_self]
    exact BitVec.and_zero

/-! ## Canonical memories -/

/-- The canonical form, clause by clause, of a memory with a first entry. -/
theorem wfFrom_cons {lo a : Nat} {v : Byte} {m : Memory} (h : Memory.wfFrom lo ((a, v) :: m) = true) :
    lo ≤ a ∧ a < memorySize ∧ v ≠ Memory.initial a ∧ Memory.wfFrom (a + 1) m = true := by
  simpa only [Memory.wfFrom, Bool.and_eq_true, decide_eq_true_eq, and_assoc] using h

theorem read_cons_same (a : Nat) (v : Byte) (m : Memory) : Memory.read ((a, v) :: m) a = v := by
  simp [Memory.read, Memory.lookup]

theorem read_cons_ne {a b : Nat} (v : Byte) (m : Memory) (h : a ≠ b) :
    Memory.read ((b, v) :: m) a = Memory.read m a := by
  simp [Memory.read, Memory.lookup, h]

/-- Below its first address a canonical memory reads as after construction. -/
theorem read_of_lt {a lo : Nat} {m : Memory} (ha : a < lo) (hm : Memory.wfFrom lo m = true) :
    Memory.read m a = Memory.initial a := by
  rw [Memory.read, Memory.lookup_eq_none ha hm, Option.getD_none]

/-- A canonical memory reads as after construction at each address below its first entry, so an address that reads
otherwise is no lower. -/
theorem head_le_of_read_ne {a b lo : Nat} {w : Byte} {m : Memory} (hm : Memory.wfFrom lo ((b, w) :: m) = true)
    (h : Memory.read ((b, w) :: m) a ≠ Memory.initial a) : b ≤ a := by
  obtain ⟨-, -, -, hrest⟩ := wfFrom_cons hm
  by_contra hlt
  rw [read_cons_ne w m (by omega), read_of_lt (by omega) hrest] at h
  exact h rfl

/-- By induction on both lists: the first entries have the same address, since neither memory lists an address below its
first, and so the same byte. -/
theorem eq_of_read_eq : ∀ {m m' : Memory} {lo lo' : Nat}, Memory.wfFrom lo m = true → Memory.wfFrom lo' m' = true →
    (∀ a < memorySize, Memory.read m a = Memory.read m' a) → m = m'
  | [], [], _, _, _, _, _ => rfl
  | [], (b, w) :: m', _, _, hm, hm', h => by
    obtain ⟨-, hb, hw, -⟩ := wfFrom_cons hm'
    exact absurd ((read_cons_same b w m').symm.trans (h b hb).symm) hw
  | (a, v) :: m, [], _, _, hm, hm', h => by
    obtain ⟨-, ha, hv, -⟩ := wfFrom_cons hm
    exact absurd ((read_cons_same a v m).symm.trans (h a ha)) hv
  | (a, v) :: m, (b, w) :: m', lo, lo', hm, hm', h => by
    obtain ⟨-, ha, hv, hrest⟩ := wfFrom_cons hm
    obtain ⟨-, hb, hw, hrest'⟩ := wfFrom_cons hm'
    have hab : a = b := by
      apply Nat.le_antisymm
      · exact head_le_of_read_ne hm (by rwa [h b hb, read_cons_same])
      · exact head_le_of_read_ne hm' (by rwa [← h a ha, read_cons_same])
    subst hab
    have hvw : v = w := by simpa only [read_cons_same] using h a ha
    have htail : ∀ c < memorySize, Memory.read m c = Memory.read m' c := by
      intro c hc
      by_cases hca : c = a
      · rw [read_of_lt (by omega) hrest, read_of_lt (by omega) hrest']
      · rw [← read_cons_ne v m hca, ← read_cons_ne w m' hca, h c hc]
    rw [hvw, eq_of_read_eq hrest hrest' htail]

/-- Settles O57: the canonical form from address 0 on. -/
theorem canonicalMemoriesAreEqualWhenTheyReadAlike : Obligations.CanonicalMemoriesAreEqualWhenTheyReadAlike :=
  fun _ _ => eq_of_read_eq

end Sys2Proof.Proofs
end

section
/-! PROOFS. Reset and construction (10_state.md R34, 20_memory.md R57, 70_reset_and_hazards.md R280 to R282): what the loader
writes and what it leaves alone, and the states that construction gives under both settings of `P_RESET_VALUES`. -/

namespace Sys2Proof.Proofs

open Sys2Proof Sys2Proof.Machine

/-! ## The reset state (R34, R57) -/

/-- Memory after construction is zero outside the font (R34, R57). -/
theorem initial_outside_font {a : Nat} (h : a < 0x050 ∨ 0x0A0 ≤ a) : Memory.initial a = 0 := by
  have hlen : fontTable.length = 80 := rfl
  unfold Memory.initial fontBase
  split
  · exact List.getD_eq_default _ _ (by omega)
  · rfl

/-- Settles O50: the fields by evaluation, and memory because nothing is listed. -/
theorem resetState : Obligations.ResetState := by
  refine ⟨by decide, rfl, rfl, rfl, by decide, Framebuffer.pixel_dark, rfl, rfl, by decide, rfl, rfl, fun a ha => ?_⟩
  rw [memRead_eq_read_mod]
  exact initial_outside_font ha

/-- Settles O51: 80 reads of the reset state. -/
theorem fontAfterReset : Obligations.FontAfterReset := by
  unfold Obligations.FontAfterReset
  decide

/-! ## The loader (R280, R281) -/

/-- Loading keeps every byte outside the loaded range. -/
theorem memRead_loadBytes_outside {a : Word} : ∀ (bs : List Byte) {base : Nat} {s : State}, Memory.wf s.mem = true →
    base + bs.length ≤ 0x1000 → a.toNat % 0x1000 < base ∨ base + bs.length ≤ a.toNat % 0x1000 →
    (State.loadBytes base bs s).memRead a = s.memRead a
  | [], _, _, _, _, _ => rfl
  | b :: bs, base, s, hs, hfit, ha => by
    rw [List.length_cons] at hfit ha
    have hne : maskAddr a ≠ maskAddr (BitVec.ofNat 16 base) := by
      rw [Ne, ← BitVec.toNat_inj, maskAddr_toNat, maskAddr_toNat, BitVec.toNat_ofNat]
      omega
    rw [State.loadBytes, memRead_loadBytes_outside bs (State.memWrite_wf _ b hs) (by omega) (by omega),
      State.memRead_memWrite _ _ _ hs, if_neg hne]

/-- A loaded byte stands at its place. -/
theorem memRead_loadBytes_inside : ∀ (bs : List Byte) {base : Nat} {s : State}, Memory.wf s.mem = true →
    base + bs.length ≤ 0x1000 → ∀ (i : Nat) (hi : i < bs.length),
    (State.loadBytes base bs s).memRead (BitVec.ofNat 16 (base + i)) = bs[i]
  | [], _, _, _, _, _, hi => absurd hi (Nat.not_lt_zero _)
  | b :: bs, base, s, hs, hfit, i, hi => by
    rw [List.length_cons] at hfit hi
    cases i with
    | zero =>
      have hbase : (BitVec.ofNat 16 (base + 0)).toNat % 0x1000 < base + 1 := by rw [BitVec.toNat_ofNat]; omega
      rw [State.loadBytes, memRead_loadBytes_outside bs (State.memWrite_wf _ b hs) (by omega) (.inl hbase),
        State.memRead_memWrite _ _ _ hs]
      exact if_pos rfl
    | succ i =>
      have hnext : base + (i + 1) = base + 1 + i := by omega
      rw [State.loadBytes, hnext]
      exact memRead_loadBytes_inside bs (State.memWrite_wf _ b hs) (by omega) i (by omega)

/-- Construction before the ROM is loaded. -/
theorem construct_nil_eq_ok {p : Params} {d : ResetDraws} {s : State} :
    State.construct p d [] = .ok s ↔ s = State.loadBytes fontBase fontTable (State.initial p d) :=
  construct_eq_ok.trans (and_iff_right (Nat.zero_le maxRom))

/-- Settles O53: the ROM is loaded into the state an empty ROM leaves, which meets the invariant, and 3584 bytes from 0x200
end at 0x1000. -/
theorem loaderCopiesTheRom : Obligations.LoaderCopiesTheRom := by
  intro p d rom s e hs he
  have hinv : e.Inv := constructedStatesMeetTheInvariant p d [] e he
  obtain ⟨hlen, rfl⟩ := construct_eq_ok.mp hs
  rw [← construct_nil_eq_ok.mp he]
  have hfit : loadBase + rom.length ≤ 0x1000 := Nat.add_le_add_left hlen 0x200
  refine ⟨memRead_loadBytes_inside rom hinv.mem hfit, fun a ha hlt => ?_, State.loadBytes_eq rom loadBase e⟩
  exact memRead_loadBytes_outside rom hinv.mem hfit (by rwa [Nat.mod_eq_of_lt hlt])

/-- Settles O54: the length is compared with 3584. -/
theorem longRomsAreRefused : Obligations.LongRomsAreRefused := fun _ _ _ =>
  ⟨fun h => ⟨_, if_pos h⟩, fun h => if_neg (Nat.not_le_of_lt h)⟩

/-! ## Construction under both settings of `P_RESET_VALUES` (R34, R280) -/

/-- Loading what an empty list of changes already reads as lists nothing. -/
theorem loadBytes_of_initial : ∀ (bs : List Byte) {base : Nat} {s : State}, s.mem = [] → base + bs.length ≤ 0x1000 →
    (∀ (i : Nat) (hi : i < bs.length), bs[i] = Memory.initial (base + i)) → State.loadBytes base bs s = s
  | [], _, _, _, _, _ => rfl
  | b :: bs, base, s, hs, hfit, hbytes => by
    rw [List.length_cons] at hfit
    have hplace : (maskAddr (BitVec.ofNat 16 base)).toNat = base := by
      rw [maskAddr_toNat, BitVec.toNat_ofNat]
      omega
    have hbyte : b = Memory.initial base := hbytes 0 (Nat.succ_pos _)
    have hwrite : s.memWrite (BitVec.ofNat 16 base) b = s := by
      rw [State.memWrite, hplace, hs, Memory.write, if_pos hbyte, Memory.erase, ← hs]
    rw [State.loadBytes, hwrite]
    refine loadBytes_of_initial bs hs (by omega) fun i hi => ?_
    rw [Nat.add_right_comm, Nat.add_assoc]
    exact hbytes (i + 1) (Nat.succ_lt_succ hi)

/-- The font is what memory reads as at reset (R57). -/
theorem loadBytes_font_reset : State.loadBytes fontBase fontTable State.reset = State.reset := by
  refine loadBytes_of_initial fontTable rfl (by decide) fun i hi => ?_
  rw [Memory.initial, if_pos (Nat.le_add_right _ _), Nat.add_sub_cancel_left, List.getD_eq_getElem _ _ hi]

/-- Settles O52: step 1 already gives the reset state, and the font is what its memory reads as. -/
theorem defaultConstructionIsReset : Obligations.DefaultConstructionIsReset := by
  intro d
  have hinitial : State.initial Params.default d = State.reset := rfl
  rw [construct_nil_eq_ok, hinitial, loadBytes_font_reset]

/-- The drawn fields before a byte of memory is drawn. -/
def drawnFields (p : Params) (d : ResetDraws) : State :=
  { State.reset with
    params := p, V := d.V, I := zextAddr d.I, stack := d.stack.map zextAddr, sp := d.sp, fb := d.fb,
    delay := d.delay, sound := d.sound, keypad := d.keypad }

/-- Drawn bytes change memory alone. -/
theorem foldl_memWrite_eq : ∀ (cells : List (Word × Byte)) (s : State),
    ∃ m, cells.foldl (fun s c => s.memWrite c.1 c.2) s = { s with mem := m }
  | [], s => ⟨s.mem, rfl⟩
  | c :: cells, s => foldl_memWrite_eq cells (s.memWrite c.1 c.2)

/-- Under `arbitrary` every field but memory is the drawn one or as at reset. -/
theorem construct_arbitrary_eq {p : Params} {d : ResetDraws} {s : State} (hp : p.resetValues = .arbitrary)
    (h : State.construct p d [] = .ok s) : ∃ m, s = { drawnFields p d with mem := m } := by
  obtain ⟨m, hm⟩ := foldl_memWrite_eq d.mem (drawnFields p d)
  have hinitial : State.initial p d = { drawnFields p d with mem := m } := by
    rw [← hm]
    simp only [State.initial, hp, drawnFields]
  rw [construct_nil_eq_ok.mp h, hinitial, State.loadBytes_eq]
  exact ⟨_, rfl⟩

/-- Draws with one byte of memory chosen and nothing else. -/
def drawOneByte (a : Word) (v : Byte) : ResetDraws :=
  { V := State.reset.V, mem := [(a, v)], I := 0, stack := Vector.replicate 16 0, sp := 0, fb := State.reset.fb,
    delay := 0, sound := 0, keypad := State.reset.keypad }

/-- Settles O55: the drawn fields are stored before memory is filled, the font is loaded over the drawn bytes, and a byte
outside the font keeps what was drawn. -/
theorem arbitraryResetDrawsTheOpenFields : Obligations.ArbitraryResetDrawsTheOpenFields := by
  have hfit : fontBase + fontTable.length ≤ 0x1000 := by decide
  refine ⟨fun p d s hp h => ?_, fun p a v hp ha hlt => ?_⟩
  · have hfont : ∀ i < 80, s.memRead (BitVec.ofNat 16 (0x050 + i)) = State.reset.memRead (BitVec.ofNat 16 (0x050 + i)) := by
      intro i hi
      have hread := memRead_loadBytes_inside fontTable (inv_initial p d).mem hfit i hi
      have hreset := memRead_loadBytes_inside fontTable resetMeetsTheInvariant.mem hfit i hi
      rw [loadBytes_font_reset] at hreset
      rw [construct_nil_eq_ok.mp h]
      exact hread.trans hreset.symm
    obtain ⟨m, rfl⟩ := construct_arbitrary_eq hp h
    refine ⟨rfl, zextAddr_toNat d.I, rfl, fun k => ?_, rfl, rfl, rfl, rfl, rfl, rfl, rfl, hfont⟩
    simp only [State.stackEntry, drawnFields, Vector.get_eq_getElem, Vector.getElem_map, zextAddr_toNat]
  · refine ⟨drawOneByte a v, _, construct_nil_eq_ok.mpr rfl, ?_⟩
    rw [memRead_loadBytes_outside fontTable (inv_initial p _).mem hfit (by rwa [Nat.mod_eq_of_lt hlt])]
    simp only [State.initial, hp, drawOneByte, List.foldl]
    rw [State.memRead_memWrite _ _ _ rfl, if_pos rfl]

end Sys2Proof.Proofs
end
